-- ==== Sys2Proof/Word.lean ====
section
/-! DEFINITION. The words of the core: bytes, 32-bit bus words, and the 16-cell arrays of the ciphers
(00_scope.md R9-R11). -/

namespace Sys2Proof

/-- One byte of a buffer. -/
abbrev Byte := BitVec 8

/-- A 32-bit bus word (00_scope.md R9). -/
abbrev Word := BitVec 32

/-- A 16-element cell array with cells of `w` bits (00_scope.md R11). Cell `i` is in row `i / 4` and
column `i % 4`; that no cell leaves `[0, 2^w)` is the type's doing. -/
structure Cells (w : Nat) where
  c0 : BitVec w
  c1 : BitVec w
  c2 : BitVec w
  c3 : BitVec w
  c4 : BitVec w
  c5 : BitVec w
  c6 : BitVec w
  c7 : BitVec w
  c8 : BitVec w
  c9 : BitVec w
  c10 : BitVec w
  c11 : BitVec w
  c12 : BitVec w
  c13 : BitVec w
  c14 : BitVec w
  c15 : BitVec w
deriving DecidableEq, Repr

/-- The 8-cell array of a round key: cells 0..7 are rows 0 and 1 (41_key_setup.md R176). -/
structure HalfCells (w : Nat) where
  r0 : BitVec w
  r1 : BitVec w
  r2 : BitVec w
  r3 : BitVec w
  r4 : BitVec w
  r5 : BitVec w
  r6 : BitVec w
  r7 : BitVec w
deriving DecidableEq, Repr

/-- The three tweakey words TK1, TK2, TK3 (10_state.md R40: "tk: 3 arrays of 16 cells"). -/
structure Tweakeys (w : Nat) where
  t0 : Cells w
  t1 : Cells w
  t2 : Cells w
deriving DecidableEq, Repr

end Sys2Proof
end

