-- ==== Sys2Proof/Syntax.lean ====
section
/-! DEFINITION. The syntax: one constructor per row of spec/opcode_table.json (30_encoding.md R99), with the
fields of the command word that the row uses (R91, R100). -/

namespace Sys2Proof

/-- The legal values of the CIPHER field (30_encoding.md R91, R93): 0, 1 and 2. The value 3 is reserved
and is no constructor. -/
inductive Cipher where
  | s64
  | s128
  | mantis
deriving DecidableEq, Repr

/-- The commands. `c` is CIPHER, `nullp` NULLP, `len` LEN, `rounds` ROUNDS and `mode` MODE. -/
inductive Instr where
  | setKey (c : Cipher) (nullp : Bool) (len : BitVec 9) (rounds : BitVec 4) (mode : Bool)
  | setTweakedKey (c : Cipher) (nullp : Bool) (len : BitVec 9)
  | setTweak (c : Cipher) (nullp : Bool) (len : BitVec 9)
  | swapModes (c : Cipher)
  | clearKey (c : Cipher)
  | encryptBlock (c : Cipher)
  | decryptBlock (c : Cipher)
  | cryptTweaked (c : Cipher)
  | ctrInit (c : Cipher)
  | ctrSetKey (c : Cipher) (nullp : Bool) (len : BitVec 9) (rounds : BitVec 4)
  | ctrSetTweakedKey (c : Cipher) (nullp : Bool) (len : BitVec 9)
  | ctrSetTweak (c : Cipher) (nullp : Bool) (len : BitVec 9)
  | ctrSetCounter (c : Cipher) (nullp : Bool) (len : BitVec 9)
  | ctrEncrypt (c : Cipher) (nullp : Bool) (len : BitVec 9)
  | ctrCleanup (c : Cipher)
  | primSbox (c : Cipher)
  | primInvSbox (c : Cipher)
  | primShiftRows (c : Cipher)
  | primInvShiftRows (c : Cipher)
  | primMixColumns (c : Cipher)
  | primInvMixColumns (c : Cipher)
  | primTweakPerm (c : Cipher)
  | primInvTweakPerm (c : Cipher)
  | primLfsr2 (c : Cipher)
  | primLfsr3 (c : Cipher)
deriving DecidableEq, Repr

end Sys2Proof
end

