-- ==== Sys2Proof/WellFormed.lean ====
section
/-! DEFINITION. Well-formed commands: the field rules of 30_encoding.md R100 that the types do not settle.
A command that fails one is ILLEGAL (R101, checks 4, 7 and 8; checks 1-3, 5 and 6 have no term: the
constructors have no field for what they forbid). -/

namespace Sys2Proof

/-- CIPHER is one of the two Skinny families (30_encoding.md R100, rows "0,1"). -/
def Cipher.isSkinny : Cipher → Bool
  | .s64 => true
  | .s128 => true
  | .mantis => false

/-- CIPHER is Mantis (30_encoding.md R100, rows "2"). -/
def Cipher.isMantis : Cipher → Bool
  | .s64 => false
  | .s128 => false
  | .mantis => true

/-- The command's word passes the decode check of 30_encoding.md R101. -/
def Instr.wellFormed : Instr → Bool
  | .setKey c _ _ rounds mode => c.isMantis || (rounds == 0 && mode == false)
  | .setTweakedKey c _ _ => c.isSkinny
  | .setTweak _ _ _ => true
  | .swapModes c => c.isMantis
  | .clearKey _ => true
  | .encryptBlock _ => true
  | .decryptBlock c => c.isSkinny
  | .cryptTweaked c => c.isMantis
  | .ctrInit _ => true
  | .ctrSetKey c _ _ rounds => c.isMantis || rounds == 0
  | .ctrSetTweakedKey c _ _ => c.isSkinny
  | .ctrSetTweak _ _ _ => true
  | .ctrSetCounter _ _ _ => true
  | .ctrEncrypt _ _ _ => true
  | .ctrCleanup _ => true
  | .primSbox _ => true
  | .primInvSbox _ => true
  | .primShiftRows _ => true
  | .primInvShiftRows _ => true
  | .primMixColumns _ => true
  | .primInvMixColumns _ => true
  | .primTweakPerm _ => true
  | .primInvTweakPerm _ => true
  | .primLfsr2 c => c.isSkinny
  | .primLfsr3 c => c.isSkinny

end Sys2Proof
end

