-- ==== Sys2Proof/Decode.lean ====
section
/-! DEFINITION. The decoder and the encoder of the command word CMD32 (30_encoding.md R90-R103). -/

namespace Sys2Proof

/-- Why a word is ILLEGAL: the eight checks of 30_encoding.md R101, by name, in its order. -/
inductive IllegalReason where
  /-- 1. RSV ≠ 0. -/
  | reservedBits
  /-- 2. OP is 0x00 or 0x1A-0x1F. -/
  | reservedOpcode
  /-- 3. CIPHER = 3. -/
  | cipherThree
  /-- 4. CIPHER is not in the OP's legal set. -/
  | cipherNotLegal
  /-- 5. NULLP = 1 and the OP has no pointer operand. -/
  | nullpUnused
  /-- 6. LEN ≠ 0 and the OP does not use LEN. -/
  | lenUnused
  /-- 7. ROUNDS ≠ 0 and the OP does not use ROUNDS for this CIPHER. -/
  | roundsUnused
  /-- 8. MODE ≠ 0 and the OP does not use MODE for this CIPHER. -/
  | modeUnused
deriving DecidableEq, Repr

/-- OP = word[4:0] (30_encoding.md R92). -/
def opField (w : Word) : BitVec 5 := w.extractLsb' 0 5

/-- CIPHER = word[6:5] (30_encoding.md R93). -/
def cipherField (w : Word) : BitVec 2 := w.extractLsb' 5 2

/-- NULLP = word[7] (30_encoding.md R94). -/
def nullpField (w : Word) : Bool := w.getLsbD 7

/-- LEN = word[16:8] (30_encoding.md R95). -/
def lenField (w : Word) : BitVec 9 := w.extractLsb' 8 9

/-- ROUNDS = word[20:17] (30_encoding.md R96). -/
def roundsField (w : Word) : BitVec 4 := w.extractLsb' 17 4

/-- MODE = word[21] (30_encoding.md R97). -/
def modeField (w : Word) : Bool := w.getLsbD 21

/-- RSV = word[31:22] (30_encoding.md R98). -/
def rsvField (w : Word) : BitVec 10 := w.extractLsb' 22 10

/-- The cipher a CIPHER field names; 3 names none (30_encoding.md R91). -/
def cipherOf (f : BitVec 2) : Option Cipher :=
  if f = 0 then some .s64 else if f = 1 then some .s128 else if f = 2 then some .mantis else none

/-- One row of 30_encoding.md R100: which CIPHER values are legal, whether the OP has a pointer operand
(NULLP kind "req" or "zero"), whether it uses LEN, and for which CIPHER it uses ROUNDS and MODE; and the
command it makes of the fields. -/
structure OpRow where
  legal : Cipher → Bool
  pointer : Bool
  usesLen : Bool
  usesRounds : Cipher → Bool
  usesMode : Cipher → Bool
  build : Cipher → Bool → BitVec 9 → BitVec 4 → Bool → Instr

/-- CIPHER column "0,1,2" of 30_encoding.md R100. -/
def anyCipher (_ : Cipher) : Bool := true

/-- An unused column "-" of 30_encoding.md R100. -/
def noCipher (_ : Cipher) : Bool := false

/-- A row that uses CIPHER only. -/
def plainRow (legal : Cipher → Bool) (build : Cipher → Instr) : OpRow :=
  ⟨legal, false, false, noCipher, noCipher, fun c _ _ _ _ => build c⟩

/-- A row that uses CIPHER, NULLP and LEN. -/
def operandRow (legal : Cipher → Bool) (build : Cipher → Bool → BitVec 9 → Instr) : OpRow :=
  ⟨legal, true, true, noCipher, noCipher, fun c n l _ _ => build c n l⟩

/-- The opcode map (30_encoding.md R99) with the field use of each row (R100). Every OP value that is not
listed is reserved (R102). -/
def opRow (op : BitVec 5) : Option OpRow :=
  match op.toNat with
  | 0x01 => some ⟨anyCipher, true, true, Cipher.isMantis, Cipher.isMantis, .setKey⟩
  | 0x02 => some (operandRow Cipher.isSkinny .setTweakedKey)
  | 0x03 => some (operandRow anyCipher .setTweak)
  | 0x04 => some (plainRow Cipher.isMantis .swapModes)
  | 0x05 => some (plainRow anyCipher .clearKey)
  | 0x06 => some (plainRow anyCipher .encryptBlock)
  | 0x07 => some (plainRow Cipher.isSkinny .decryptBlock)
  | 0x08 => some (plainRow Cipher.isMantis .cryptTweaked)
  | 0x09 => some (plainRow anyCipher .ctrInit)
  | 0x0A => some ⟨anyCipher, true, true, Cipher.isMantis, noCipher, fun c n l r _ => .ctrSetKey c n l r⟩
  | 0x0B => some (operandRow Cipher.isSkinny .ctrSetTweakedKey)
  | 0x0C => some (operandRow anyCipher .ctrSetTweak)
  | 0x0D => some (operandRow anyCipher .ctrSetCounter)
  | 0x0E => some (operandRow anyCipher .ctrEncrypt)
  | 0x0F => some (plainRow anyCipher .ctrCleanup)
  | 0x10 => some (plainRow anyCipher .primSbox)
  | 0x11 => some (plainRow anyCipher .primInvSbox)
  | 0x12 => some (plainRow anyCipher .primShiftRows)
  | 0x13 => some (plainRow anyCipher .primInvShiftRows)
  | 0x14 => some (plainRow anyCipher .primMixColumns)
  | 0x15 => some (plainRow anyCipher .primInvMixColumns)
  | 0x16 => some (plainRow anyCipher .primTweakPerm)
  | 0x17 => some (plainRow anyCipher .primInvTweakPerm)
  | 0x18 => some (plainRow Cipher.isSkinny .primLfsr2)
  | 0x19 => some (plainRow Cipher.isSkinny .primLfsr3)
  | _ => none

/-- Checks 4 to 8 of 30_encoding.md R101 on the fields of one row, and the command when all pass. -/
def decodeRow (row : OpRow) (c : Cipher) (nullp : Bool) (len : BitVec 9) (rounds : BitVec 4)
    (mode : Bool) : Except IllegalReason Instr :=
  if row.legal c = false then .error .cipherNotLegal
  else if nullp = true ∧ row.pointer = false then .error .nullpUnused
  else if len ≠ 0 ∧ row.usesLen = false then .error .lenUnused
  else if rounds ≠ 0 ∧ row.usesRounds c = false then .error .roundsUnused
  else if mode = true ∧ row.usesMode c = false then .error .modeUnused
  else .ok (row.build c nullp len rounds mode)

/-- The decoder: total, one command or the name of the check that makes the word ILLEGAL
(30_encoding.md R101, R103). -/
def decode (w : Word) : Except IllegalReason Instr :=
  if rsvField w ≠ 0 then .error .reservedBits
  else
    match opRow (opField w) with
    | none => .error .reservedOpcode
    | some row =>
      match cipherOf (cipherField w) with
      | none => .error .cipherThree
      | some c => decodeRow row c (nullpField w) (lenField w) (roundsField w) (modeField w)

/-- The CIPHER field of a cipher (30_encoding.md R91). -/
def Cipher.code : Cipher → Word
  | .s64 => 0
  | .s128 => 1
  | .mantis => 2

/-- One flag as a number. -/
def flagCode (b : Bool) : Word := if b then 1 else 0

/-- The encoder's formula (30_encoding.md R91): "word = OP | CIPHER << 5 | NULLP << 7 | LEN << 8 |
ROUNDS << 17 | MODE << 21". -/
def packWord (op : Word) (c : Cipher) (nullp : Bool) (len : BitVec 9) (rounds : BitVec 4) (mode : Bool) :
    Word :=
  op ||| c.code <<< 5 ||| flagCode nullp <<< 7 ||| len.setWidth 32 <<< 8 ||| rounds.setWidth 32 <<< 17
    ||| flagCode mode <<< 21

/-- The word of a command (30_encoding.md R91, R99). -/
def encode : Instr → Word
  | .setKey c n l r m => packWord 0x01 c n l r m
  | .setTweakedKey c n l => packWord 0x02 c n l 0 false
  | .setTweak c n l => packWord 0x03 c n l 0 false
  | .swapModes c => packWord 0x04 c false 0 0 false
  | .clearKey c => packWord 0x05 c false 0 0 false
  | .encryptBlock c => packWord 0x06 c false 0 0 false
  | .decryptBlock c => packWord 0x07 c false 0 0 false
  | .cryptTweaked c => packWord 0x08 c false 0 0 false
  | .ctrInit c => packWord 0x09 c false 0 0 false
  | .ctrSetKey c n l r => packWord 0x0A c n l r false
  | .ctrSetTweakedKey c n l => packWord 0x0B c n l 0 false
  | .ctrSetTweak c n l => packWord 0x0C c n l 0 false
  | .ctrSetCounter c n l => packWord 0x0D c n l 0 false
  | .ctrEncrypt c n l => packWord 0x0E c n l 0 false
  | .ctrCleanup c => packWord 0x0F c false 0 0 false
  | .primSbox c => packWord 0x10 c false 0 0 false
  | .primInvSbox c => packWord 0x11 c false 0 0 false
  | .primShiftRows c => packWord 0x12 c false 0 0 false
  | .primInvShiftRows c => packWord 0x13 c false 0 0 false
  | .primMixColumns c => packWord 0x14 c false 0 0 false
  | .primInvMixColumns c => packWord 0x15 c false 0 0 false
  | .primTweakPerm c => packWord 0x16 c false 0 0 false
  | .primInvTweakPerm c => packWord 0x17 c false 0 0 false
  | .primLfsr2 c => packWord 0x18 c false 0 0 false
  | .primLfsr3 c => packWord 0x19 c false 0 0 false

/-- The word whose low `nbits` bits are those of `w`, every bit above them zero. -/
def tableWord (nbits w : Nat) : Word := BitVec.ofNat 32 (w % 2 ^ nbits)

/-- The command the decoder reads from a word numbered as spec/opcode_table.json numbers it: a command is
one 32-bit word written to CMD (30_encoding.md R90), so there is nothing to lay out in memory. -/
def decodeTableWord (nbits w : Nat) : Option Instr :=
  match decode (tableWord nbits w) with
  | .ok i => some i
  | .error _ => none

end Sys2Proof
end

