-- ==== Sys2Proof/Config.lean ====
section
/-! DEFINITION. What is fixed for one machine (00_scope.md R8) and the values the spec leaves open
(93_implementation_defined.md). -/

namespace Sys2Proof

/-- CTR_LANES: K is one of 1, 2, 4, 8 (00_scope.md R8). -/
inductive Lanes where
  | k1
  | k2
  | k4
  | k8
deriving DecidableEq, Repr

/-- The number K. -/
def Lanes.count : Lanes → Nat
  | .k1 => 1
  | .k2 => 2
  | .k4 => 4
  | .k8 => 8

/-- The parameters of one machine. -/
structure Config where
  /-- CTR_LANES (00_scope.md R8; 93_implementation_defined.md U11). -/
  lanes : Lanes
  /-- What the host's platform does with a refused access (93_implementation_defined.md U5, a parameter):
  `true`, the run stops there with the bus error as a fault; `false`, the host goes on with the error as
  the answer of its access (log 4). -/
  busErrorStops : Bool
deriving DecidableEq, Repr

/-- This hardware: K = 1 (00_scope.md R8). That a bus error stops the run is a DESIGN CHOICE (log 4). -/
def Config.thisHardware : Config := { lanes := .k1, busErrorStops := true }

/-- STREAM_BYTES: the size of DATA_IN and DATA_OUT (00_scope.md R8). -/
def streamBytes : Nat := 256

/-- A free value: the `n`-th draw of a 32-bit read that the spec leaves unspecified (20_memory.md R80,
70_reset_and_hazards.md R336: "any 32-bit value, a new draw on every read"). No body: nothing can be proved
of it (log 3). -/
opaque Config.freeWord : Nat → Word

/-- The platform's choice of the window base, in units of 4 KiB (93_implementation_defined.md U12). No
body (log 6). -/
opaque Config.windowPage : Nat

/-- The bus address of register offset 0, 4 KiB aligned (20_memory.md R60; log 6). -/
def Config.windowBase : Nat := 4096 * Config.windowPage

/-- The bus address of an offset of the window. No rule depends on it (93_implementation_defined.md U12);
accesses are given by their offset. -/
def Config.busAddress (offset : BitVec 12) : Nat := Config.windowBase + offset.toNat

end Sys2Proof
end

