-- ==== Sys2Proof/Machine/State.lean ====
section
/-! DEFINITION. The architectural state (10_state.md R20) as plain data, the model's own fields for what is
outside the core, and the state after reset (R50). -/

namespace Sys2Proof.Machine

/-- Why a bus access is refused, in the order the core checks (60_exceptions.md R311). Raised by
`State.checkAccess`, for host accesses only; no command raises one. Safe: a refused access changes no core
state (R310), and a run stops with it only where the platform stops (`Config.busErrorStops`, log 4). -/
inductive Fault where
  /-- 1. The access width is not 32 bits, or the offset is not a multiple of 4 (20_memory.md R63). Raised by
  any access. Safe: the spec names the refusal. -/
  | notAlignedWord
  /-- 2. The offset is reserved (20_memory.md R62). Raised by any access. Safe: the spec names the refusal. -/
  | reservedOffset
  /-- 3. A write to a read-only register (20_memory.md R66). Raised by a write. Safe: the spec names the
  refusal. -/
  | readOnlyWrite
deriving DecidableEq, Repr

/-- Why an instruction has no meaning. -/
inductive Refusal where
  /-- A row of the opcode table that has no meaning yet. Raised by no arm of this model: every row has its
  meaning. Safe. -/
  | notModelled (mnemonic : String)
deriving DecidableEq, Repr

/-- The error codes of a command (60_exceptions.md R302), code 0 apart. -/
inductive CmdError where
  | illegal
  | noctx
  | cipher
  | nokey
  | notweak
  | param
deriving DecidableEq, Repr

/-- STATUS (10_state.md R23). Bits 31:8 read 0 and are no state. -/
structure Status where
  busy : Bool
  done : Bool
  ok : Bool
  overrun : Bool
  err : BitVec 4
deriving DecidableEq, Repr

/-- The seven byte buffers of the window (20_memory.md R61). -/
inductive Buffer where
  | key
  | tweak
  | counter
  | blockIn
  | blockOut
  | dataIn
  | dataOut
deriving DecidableEq, Repr

/-- The bytes of the window's buffers: a canonical list of (offset, byte), offsets strictly rising, no zero
byte listed (`Memory.wf`). An unlisted byte reads 0, the reset content (10_state.md R50; log 13). -/
abbrev Memory := List Host.Cell

/-- A Latch (10_state.md R37): the command word and the five host-written buffers at acceptance. -/
structure Latch where
  word : Word
  key : List Byte
  tweak : List Byte
  counter : List Byte
  blockIn : List Byte
  dataIn : List Byte
deriving DecidableEq, Repr

/-- SEQ (10_state.md R36). -/
structure Seq where
  busy : Bool
  pending : Option Latch
deriving DecidableEq, Repr

/-- A key slot, the record of BK and of CX.ks (10_state.md R40). A cell of `tk` is kept in 8 bits for both
cell widths (log 7). `tweak` is the spec's field T. -/
structure KeySlot where
  valid : Bool
  cipher : Cipher
  tweaked : Bool
  z : Nat
  rounds : Nat
  tk : Tweakeys 8
  k0 : BitVec 64
  k0p : BitVec 64
  k1 : BitVec 64
  mode : Bool
  tweak : BitVec 64
deriving DecidableEq, Repr

/-- The CTR context CX (10_state.md R47). -/
structure CtrContext where
  init : Bool
  cipher : Cipher
  ks : KeySlot
  c : Nat
  buf : List Byte
  offset : Nat
deriving DecidableEq, Repr

/-- The width of a bus access (20_memory.md R63). -/
inductive Width where
  | bits8
  | bits16
  | bits32
deriving DecidableEq, Repr

/-- A host bus access at an offset of the window (20_memory.md R64). -/
inductive Access where
  | read (width : Width) (offset : BitVec 12)
  | write (width : Width) (offset : BitVec 12) (value : Word)
deriving DecidableEq, Repr

/-- What the bus answers (20_memory.md R64): the word read, the acknowledgement of a write (also of a
dropped one, log 12), or a bus error (60_exceptions.md R310). -/
inductive Response where
  | data (value : Word)
  | written
  | busError (why : Fault)
deriving DecidableEq, Repr

/-- Who moves next (00_scope.md R7; log 2): the host with one access, the core sequencer, or the platform's
reset. -/
inductive Turn where
  | access (a : Access)
  | core
  | reset
deriving DecidableEq, Repr

/-- The state of the machine. `cmd` to `cx` are the spec's (10_state.md R20); `cfg` holds the parameters
(00_scope.md R8); `schedule`, `response` and `draws` are the model's own (log 2, log 12, log 3). ID, CAPS,
KEYINFO and CTRINFO are constants or derived words (R21, R24-R26) and are computed where they are read. -/
structure State where
  cmd : Word
  status : Status
  mem : Memory
  seq : Seq
  bk : KeySlot
  cx : CtrContext
  cfg : Config
  schedule : List Turn
  response : Option Response
  draws : Nat
deriving DecidableEq, Repr

/-- A cell array of zeros. -/
def zeroCells (w : Nat) : Cells w := ⟨0, 0, 0, 0, 0, 0, 0, 0, 0, 0, 0, 0, 0, 0, 0, 0⟩

/-- STATUS 0 (10_state.md R50). -/
def zeroStatus : Status := { busy := false, done := false, ok := false, overrun := false, err := 0 }

/-- The idle sequencer (10_state.md R36). -/
def idleSeq : Seq := { busy := false, pending := none }

/-- A key slot with every field 0 (10_state.md R40, 41_key_setup.md R190). -/
def zeroSlot : KeySlot :=
  { valid := false, cipher := .s64, tweaked := false, z := 0, rounds := 0
    tk := ⟨zeroCells 8, zeroCells 8, zeroCells 8⟩
    k0 := 0, k0p := 0, k1 := 0, mode := false, tweak := 0 }

/-- A CTR context with every field 0 on a machine of `k` lanes (10_state.md R47, 43_ctr.md R272). Its cipher
is 0, Skinny-64, so its buffer is `k * 8` zero bytes (log 10). -/
def zeroContext (k : Nat) : CtrContext :=
  { init := false, cipher := .s64, ks := zeroSlot, c := 0, buf := List.replicate (k * 8) 0, offset := 0 }

/-- The state after reset of a machine with the given parameters (10_state.md R50), no turn scheduled. -/
def State.resetOf (cfg : Config) : State :=
  { cmd := 0, status := zeroStatus, mem := [], seq := idleSeq, bk := zeroSlot
    cx := zeroContext cfg.lanes.count
    cfg := cfg, schedule := [], response := none, draws := 0 }

/-- The machine right after reset (10_state.md R50, 70_reset_and_hazards.md R330). -/
def State.reset : State := State.resetOf Config.thisHardware

end Sys2Proof.Machine
end

