-- ==== Sys2Proof/Machine/Flags.lean ====
section
/-! DEFINITION. STATUS and the words computed from state: ID, STATUS, KEYINFO, CTRINFO, CAPS
(10_state.md R21-R26), and what acceptance, completion and a dropped write do to STATUS (60_exceptions.md
R307, R309). -/

namespace Sys2Proof.Machine

/-- One flag as a bus word. -/
def bitWord (b : Bool) : Word := if b then 1 else 0

/-- CIPHER in KEYINFO and CTRINFO: 0 Skinny-64, 1 Skinny-128, 2 Mantis (10_state.md R24). -/
def cipherWord : Cipher → Word
  | .s64 => 0
  | .s128 => 1
  | .mantis => 2

/-- The low `n` bits of a count, as a bus word. -/
def fieldWord (n v : Nat) : Word := BitVec.ofNat 32 (v % 2 ^ n)

/-- ID reads the constant 0x594E4B53 (10_state.md R21). -/
def idWord : Word := 0x594E4B53

/-- CAPS: LANES in bits 7:0, STREAM in bits 17:8 (10_state.md R26). -/
def capsWord (cfg : Config) : Word := fieldWord 8 cfg.lanes.count ||| fieldWord 10 streamBytes <<< 8

/-- STATUS as a bus word (10_state.md R23). -/
def Status.word (t : Status) : Word :=
  bitWord t.busy ||| bitWord t.done <<< 1 ||| bitWord t.ok <<< 2 ||| bitWord t.overrun <<< 3
    ||| t.err.setWidth 32 <<< 4

/-- KEYINFO (10_state.md R24). -/
def keyInfoWord (bk : KeySlot) : Word :=
  if bk.valid then
    1 ||| cipherWord bk.cipher <<< 1 ||| bitWord bk.tweaked <<< 3 ||| fieldWord 6 bk.rounds <<< 4
      ||| (if bk.cipher = .mantis then (0 : Word) else fieldWord 2 bk.z <<< 10)
      ||| (if bk.cipher = .mantis then bitWord bk.mode <<< 12 else (0 : Word))
  else 0

/-- CTRINFO (10_state.md R25). -/
def ctrInfoWord (cx : CtrContext) : Word :=
  if cx.init then
    1 ||| cipherWord cx.cipher <<< 1 ||| bitWord cx.ks.valid <<< 3 ||| bitWord cx.ks.tweaked <<< 4
      ||| fieldWord 6 cx.ks.rounds <<< 8 ||| fieldWord 8 cx.offset <<< 16
  else 0

/-- The error codes of STATUS.ERR; no error is 0 (60_exceptions.md R302). -/
def errorCode : Option CmdError → BitVec 4
  | none => 0
  | some .illegal => 1
  | some .noctx => 2
  | some .cipher => 3
  | some .nokey => 4
  | some .notweak => 5
  | some .param => 6

/-- STATUS at acceptance (60_exceptions.md R307). -/
def acceptedStatus : Status := { busy := true, done := false, ok := false, overrun := false, err := 0 }

/-- STATUS at completion; OVERRUN is unchanged (60_exceptions.md R307). -/
def Status.completed (t : Status) (e : Option CmdError) : Status :=
  { t with busy := false, done := true, ok := e.isNone, err := errorCode e }

/-- STATUS after a dropped write (60_exceptions.md R309). -/
def Status.overran (t : Status) : Status := { t with overrun := true }

end Sys2Proof.Machine
end

