-- ==== Sys2Proof/Machine/Ops.lean ====
section
/-! DEFINITION. The named operations over the state: the bytes of the buffers, acceptance and completion of a
command with its error (the machine's one form of an exception), the host's bus accesses, and the platform's
reset. -/

namespace Sys2Proof.Machine

/-! ### Bytes of the window -/

/-- The base offset of a buffer (20_memory.md R61). -/
def Buffer.base : Buffer → Nat
  | .key => 0x040
  | .tweak => 0x080
  | .counter => 0x090
  | .blockIn => 0x0A0
  | .blockOut => 0x0B0
  | .dataIn => 0x100
  | .dataOut => 0x200

/-- The size of a buffer in bytes (20_memory.md R61). -/
def Buffer.size : Buffer → Nat
  | .key => 48
  | .tweak => 16
  | .counter => 16
  | .blockIn => 16
  | .blockOut => 16
  | .dataIn => streamBytes
  | .dataOut => streamBytes

/-- The host may write the buffer (20_memory.md R61, column A). -/
def Buffer.hostWritable : Buffer → Bool
  | .key => true
  | .tweak => true
  | .counter => true
  | .blockIn => true
  | .blockOut => false
  | .dataIn => true
  | .dataOut => false

/-- The buffer that holds the byte at an offset, if any (20_memory.md R61). -/
def bufferAt (a : Nat) : Option Buffer :=
  if 0x040 ≤ a ∧ a < 0x070 then some .key
  else if 0x080 ≤ a ∧ a < 0x090 then some .tweak
  else if 0x090 ≤ a ∧ a < 0x0A0 then some .counter
  else if 0x0A0 ≤ a ∧ a < 0x0B0 then some .blockIn
  else if 0x0B0 ≤ a ∧ a < 0x0C0 then some .blockOut
  else if 0x100 ≤ a ∧ a < 0x200 then some .dataIn
  else if 0x200 ≤ a ∧ a < 0x300 then some .dataOut
  else none

/-- What an unlisted byte reads as: the reset content of every buffer (10_state.md R50). -/
def unlistedByte : Byte := 0

/-- The byte at an offset. -/
def Memory.read : Memory → Nat → Byte
  | [], _ => unlistedByte
  | (b, x) :: m, a => if b = a then x else Memory.read m a

/-- The memory with no entry for `a`. -/
def Memory.remove (m : Memory) (a : Nat) : Memory := m.filter fun c => c.1 != a

/-- The memory with an entry for `a`, put before the first larger offset. -/
def Memory.insert : Memory → Nat → Byte → Memory
  | [], a, v => [(a, v)]
  | (b, x) :: m, a, v => if a < b then (a, v) :: (b, x) :: m else (b, x) :: Memory.insert m a v

/-- One byte written. Writing what an unlisted byte reads as removes the entry. -/
def Memory.write (m : Memory) (a : Nat) (v : Byte) : Memory :=
  if v = unlistedByte then m.remove a else Memory.insert (m.remove a) a v

/-- Consecutive bytes written from `a` on. -/
def Memory.writeBytes : Memory → Nat → List Byte → Memory
  | m, _, [] => m
  | m, a, v :: vs => Memory.writeBytes (m.write a v) (a + 1) vs

/-- `n` consecutive bytes from `a` on. -/
def Memory.readBytes (m : Memory) (a n : Nat) : List Byte := (List.range n).map fun i => m.read (a + i)

/-- Every offset listed is above `a`. -/
def Memory.above (a : Nat) : Memory → Bool
  | [] => true
  | (b, _) :: _ => a < b

/-- The canonical form: offsets strictly rising, each in a buffer, and no entry equal to what an unlisted
byte reads as. -/
def Memory.wf : Memory → Bool
  | [] => true
  | (a, v) :: m => v != unlistedByte && (bufferAt a).isSome && Memory.above a m && Memory.wf m

/-- The contents of a buffer, in index order. -/
def bufferBytes (m : Memory) (b : Buffer) : List Byte := m.readBytes b.base b.size

/-- The 32-bit word at an offset: byte `a` in bits 7:0 and so on up (20_memory.md R65). -/
def Memory.readWord (m : Memory) (a : Nat) : Word := m.read (a + 3) ++ m.read (a + 2) ++ m.read (a + 1) ++ m.read a

/-- The four bytes of a word in offset order (20_memory.md R65). -/
def wordBytes (v : Word) : List Byte :=
  [v.extractLsb' 0 8, v.extractLsb' 8 8, v.extractLsb' 16 8, v.extractLsb' 24 8]

/-! ### Acceptance -/

/-- The Latch of a command word: a copy of the five host-written buffers (10_state.md R37). -/
def takeLatch (m : Memory) (w : Word) : Latch :=
  { word := w
    key := bufferBytes m .key
    tweak := bufferBytes m .tweak
    counter := bufferBytes m .counter
    blockIn := bufferBytes m .blockIn
    dataIn := bufferBytes m .dataIn }

/-- Acceptance of a command word (10_state.md R22, R36; 60_exceptions.md R307). -/
def State.accept (s : State) (w : Word) : State :=
  { s with cmd := w, status := acceptedStatus, seq := { busy := true, pending := some (takeLatch s.mem w) } }

/-- The Latch a command body reads (10_state.md R37). With no command pending, which no run shows to a
command, the live buffers (log 9). -/
def State.latch (s : State) : Latch :=
  match s.seq.pending with
  | some l => l
  | none => takeLatch s.mem s.cmd

/-- The command of the pending Latch: none when idle, else what the decoder makes of the latched word
(10_state.md R36, R37). -/
def State.fetch (s : State) : Option (Except IllegalReason Instr) :=
  match s.seq.pending with
  | some l => some (decode l.word)
  | none => none

/-! ### Completion, with or without an error -/

/-- `complete(e)`: STATUS and the idle sequencer (60_exceptions.md R307, 10_state.md R36). -/
def State.complete (s : State) (e : Option CmdError) : State :=
  { s with status := s.status.completed e, seq := idleSeq }

/-- `raise CmdError(e)` with every pending update discarded (60_exceptions.md R301): the machine's one way
of taking an error. Nothing returns from it (R308). -/
def State.raise (s : State) (e : CmdError) : State := s.complete (some e)

/-- The first check that fails, in the order given (60_exceptions.md R303). -/
def firstError : List (Bool × CmdError) → Option CmdError
  | [] => none
  | (true, e) :: _ => some e
  | (false, _) :: rest => firstError rest

/-- A command: the ILLEGAL check of its word, then its own checks in order, then its updates, published
together with STATUS (20_memory.md R75, 60_exceptions.md R301, R303). `updated` is the state with the updates. -/
def command (i : Instr) (checks : List (Bool × CmdError)) (updated s : State) :
    Host.Outcome State Fault Refusal :=
  match firstError ((!i.wellFormed, .illegal) :: checks) with
  | some e => .next (s.raise e)
  | none => .next (updated.complete none)

/-- The checks on the block key slot, CIPHER only when a key is loaded, then NOKEY (60_exceptions.md R305). -/
def blockKeyChecks (s : State) (c : Cipher) : List (Bool × CmdError) :=
  [(s.bk.valid && s.bk.cipher != c, .cipher), (!s.bk.valid, .nokey)]

/-- The checks on the CTR context, NOCTX then CIPHER (43_ctr.md section 2). -/
def contextChecks (s : State) (c : Cipher) : List (Bool × CmdError) :=
  [(!s.cx.init, .noctx), (s.cx.cipher != c, .cipher)]

/-! ### Outputs -/

/-- BLOCK_OUT: the result bytes, then zeros up to 16 (42_block_crypt.md R231). -/
def State.putBlockOut (s : State) (y : List Byte) : State :=
  { s with mem := s.mem.writeBytes (Buffer.base .blockOut) (y ++ List.replicate (16 - y.length) 0) }

/-- DATA_OUT[0..L-1]; the bytes past them stay (43_ctr.md R271, 70_reset_and_hazards.md R338). -/
def State.putDataOut (s : State) (y : List Byte) : State :=
  { s with mem := s.mem.writeBytes (Buffer.base .dataOut) y }

/-! ### The host's bus accesses -/

/-- What stands at an offset of the window (20_memory.md R61). -/
inductive Region where
  | id
  | cmd
  | status
  | keyinfo
  | ctrinfo
  | caps
  | buffer (b : Buffer)
  | reserved
deriving DecidableEq, Repr

/-- The register map (20_memory.md R61). -/
def regionAt (a : Nat) : Region :=
  if a < 0x004 then .id
  else if a < 0x008 then .cmd
  else if a < 0x00C then .status
  else if a < 0x010 then .keyinfo
  else if a < 0x014 then .ctrinfo
  else if a < 0x018 then .caps
  else
    match bufferAt a with
    | some b => .buffer b
    | none => .reserved

/-- A write to it is a bus error (20_memory.md R66). -/
def Region.readOnly : Region → Bool
  | .id => true
  | .cmd => false
  | .status => true
  | .keyinfo => true
  | .ctrinfo => true
  | .caps => true
  | .buffer b => !b.hostWritable
  | .reserved => false

/-- A read of it while busy is a free value (20_memory.md R80). -/
def Region.freeWhileBusy : Region → Bool
  | .id => false
  | .cmd => false
  | .status => false
  | .keyinfo => true
  | .ctrinfo => true
  | .caps => false
  | .buffer b => !b.hostWritable
  | .reserved => false

/-- The offset of an access. -/
def Access.offset : Access → Nat
  | .read _ a => a.toNat
  | .write _ a _ => a.toNat

/-- The width of an access. -/
def Access.width : Access → Width
  | .read w _ => w
  | .write w _ _ => w

/-- The access is a write. -/
def Access.isWrite : Access → Bool
  | .read _ _ => false
  | .write _ _ _ => true

/-- The bus error of an access, the first condition that applies (60_exceptions.md R311). It depends on the
access alone. -/
def accessFault (a : Access) : Option Fault :=
  if a.width ≠ .bits32 ∨ a.offset % 4 ≠ 0 then some .notAlignedWord
  else if regionAt a.offset = .reserved then some .reservedOffset
  else if a.isWrite ∧ (regionAt a.offset).readOnly then some .readOnlyWrite
  else none

/-- The word at an aligned offset (10_state.md R21-R33). A reserved offset is never read: `accessFault` refuses
it first. -/
def State.readWord (s : State) (a : Nat) : Word :=
  match regionAt a with
  | .id => idWord
  | .cmd => s.cmd
  | .status => s.status.word
  | .keyinfo => keyInfoWord s.bk
  | .ctrinfo => ctrInfoWord s.cx
  | .caps => capsWord s.cfg
  | .buffer _ => s.mem.readWord a
  | .reserved => 0

/-- `MemRead(a, 4)` past its checks (20_memory.md R64, R66). While busy, BLOCK_OUT, DATA_OUT, KEYINFO and CTRINFO
give the next free draw (R80, 70_reset_and_hazards.md R336; log 3). -/
def State.busRead (s : State) (a : Nat) : State :=
  if s.seq.busy && (regionAt a).freeWhileBusy then
    { s with response := some (.data (Config.freeWord s.draws)), draws := s.draws + 1 }
  else { s with response := some (.data (s.readWord a)) }

/-- `MemWrite(a, 4, v)` past its checks: dropped with OVERRUN while busy (20_memory.md R79), else acceptance of a
command (10_state.md R22) or four bytes stored (20_memory.md R66). -/
def State.busWrite (s : State) (a : Nat) (v : Word) : State :=
  let s := { s with response := some .written }
  if s.seq.busy then { s with status := s.status.overran }
  else if regionAt a = .cmd then s.accept v
  else { s with mem := s.mem.writeBytes a (wordBytes v) }

/-- A host access that is not refused. -/
def State.performAccess (s : State) : Access → State
  | .read _ a => s.busRead a.toNat
  | .write _ a v => s.busWrite a.toNat v

/-- A host access. A refused one changes no core state (60_exceptions.md R310); whether the run then stops is
the platform's (93_implementation_defined.md U5; log 4). -/
def State.busAccess (s : State) (a : Access) : Host.Outcome State Fault Refusal :=
  match accessFault a with
  | some why => if s.cfg.busErrorStops then .fault why else .next { s with response := some (.busError why) }
  | none => .next (s.performAccess a)

/-! ### Turns and reset -/

/-- Who moves next. With nothing scheduled it is the core, so that a completion always comes
(70_reset_and_hazards.md R340; log 2). -/
def State.turn (s : State) : Turn :=
  match s.schedule with
  | [] => .core
  | t :: _ => t

/-- The state once its turn has been taken off the schedule. -/
def State.popTurn (s : State) : State := { s with schedule := s.schedule.tail }

/-- The platform's reset, also in mid-command (10_state.md R50, 70_reset_and_hazards.md R330, R331). The
parameters, the turns still to come and the count of free draws are outside the core and stay. -/
def State.platformReset (s : State) : State :=
  { State.resetOf s.cfg with schedule := s.schedule, draws := s.draws }

end Sys2Proof.Machine
end

