-- ==== Sys2Proof/Machine/Cells.lean ====
section
/-! DEFINITION. Cell arrays: reading, building, permuting, and their serialized forms as bytes and as
64-bit integers (00_scope.md R11, 20_memory.md R68-R71). -/

namespace Sys2Proof.Machine

/-- The cells in index order. -/
def cellList {w : Nat} (s : Cells w) : List (BitVec w) :=
  [s.c0, s.c1, s.c2, s.c3, s.c4, s.c5, s.c6, s.c7, s.c8, s.c9, s.c10, s.c11, s.c12, s.c13, s.c14, s.c15]

/-- Cell `i`, for `i` in 0..15. -/
def cellAt {w : Nat} (s : Cells w) (i : Nat) : BitVec w := (cellList s).getD i 0

/-- The array whose cell `i` is `f i`. -/
def cellsOf {w : Nat} (f : Nat → BitVec w) : Cells w :=
  ⟨f 0, f 1, f 2, f 3, f 4, f 5, f 6, f 7, f 8, f 9, f 10, f 11, f 12, f 13, f 14, f 15⟩

/-- `s'[i] = f (s[i])` for every cell. -/
def mapCells {v w : Nat} (f : BitVec v → BitVec w) (s : Cells v) : Cells w :=
  cellsOf fun i => f (cellAt s i)

/-- `a ⊕ b`, cell by cell. -/
def xorCells {w : Nat} (a b : Cells w) : Cells w := cellsOf fun i => cellAt a i ^^^ cellAt b i

/-- `Permute(s, p)`: `s'[i] = s[p[i]]` (00_scope.md R11). -/
def permute {w : Nat} (p : List Nat) (s : Cells w) : Cells w := cellsOf fun i => cellAt s (p.getD i 0)

/-- The same cells in another width. -/
def resizeCells {v : Nat} (w : Nat) (s : Cells v) : Cells w := mapCells (fun x => x.setWidth w) s

/-- `Cells_8`: cell `i` is byte `i` (20_memory.md R68). -/
def cells8 (b : List Byte) : Cells 8 := cellsOf fun i => b.getD i 0

/-- `Bytes_8` (20_memory.md R68). -/
def bytes8 (s : Cells 8) : List Byte := cellList s

/-- `Cells_4`: cell `2k` is the high nibble of byte `k` and cell `2k+1` the low one (20_memory.md R68). -/
def cells4 (b : List Byte) : Cells 4 :=
  cellsOf fun i => (b.getD (i / 2) 0).extractLsb' (if i % 2 = 0 then 4 else 0) 4

/-- `Bytes_4`: byte `k` is cell `2k` above cell `2k+1` (20_memory.md R68). -/
def bytes4 (s : Cells 4) : List Byte :=
  (List.range 8).map fun k => cellAt s (2 * k) ++ cellAt s (2 * k + 1)

/-- `BE(bytes)`: the first byte is the most significant (00_scope.md R12, 20_memory.md R70, R71). -/
def beNat (b : List Byte) : Nat := b.foldl (fun acc x => acc * 256 + x.toNat) 0

/-- `BE` of an 8-byte string as a 64-bit integer (20_memory.md R70). -/
def be64 (b : List Byte) : BitVec 64 := BitVec.ofNat 64 (beNat b)

/-- `BE_n^-1(v)`: `n` bytes, the last the least significant (00_scope.md R12, 20_memory.md R71). -/
def beBytes (n v : Nat) : List Byte :=
  (List.range n).map fun i => BitVec.ofNat 8 (v / 256 ^ (n - 1 - i))

/-- `Nib(x)[i] = (x >> (60 - 4i)) & 0xF`: cell 0 is the most significant nibble (42_block_crypt.md R225,
20_memory.md R70). -/
def nibbles (x : BitVec 64) : Cells 4 := cellsOf fun i => x.extractLsb' (60 - 4 * i) 4

end Sys2Proof.Machine
end

