-- ==== Sys2Proof/Machine/Engines.lean ====
section
/-! DEFINITION. The engine functions: S-boxes, cell permutations, MixColumns, tweakey permutations and LFSRs
(40_engines.md R120-R142). -/

namespace Sys2Proof.Machine

/-! ### S-boxes -/

/-- The S4 table (40_engines.md R123). -/
def s4Table : List (BitVec 4) :=
  [0xc, 0x6, 0x9, 0x0, 0x1, 0xa, 0x2, 0xb, 0x3, 0x8, 0x5, 0xd, 0x4, 0xe, 0x7, 0xf]

/-- The S4 inverse table (40_engines.md R124). -/
def s4InvTable : List (BitVec 4) :=
  [0x3, 0x4, 0x6, 0x8, 0xc, 0xa, 0x1, 0xe, 0x9, 0x2, 0x5, 0x7, 0x0, 0xb, 0xd, 0xf]

/-- The SM table, the Mantis box (40_engines.md R128, 90_conflicts.md C4). -/
def smTable : List (BitVec 4) :=
  [0xc, 0xa, 0xd, 0x3, 0xe, 0xb, 0xf, 0x7, 0x8, 0x9, 0x1, 0x5, 0x0, 0x2, 0x4, 0x6]

/-- Rows hi = 0..7 of the S8 table (40_engines.md R126). -/
def s8RowsLow : List (List Byte) :=
  [[0x65, 0x4c, 0x6a, 0x42, 0x4b, 0x63, 0x43, 0x6b, 0x55, 0x75, 0x5a, 0x7a, 0x53, 0x73, 0x5b, 0x7b],
   [0x35, 0x8c, 0x3a, 0x81, 0x89, 0x33, 0x80, 0x3b, 0x95, 0x25, 0x98, 0x2a, 0x90, 0x23, 0x99, 0x2b],
   [0xe5, 0xcc, 0xe8, 0xc1, 0xc9, 0xe0, 0xc0, 0xe9, 0xd5, 0xf5, 0xd8, 0xf8, 0xd0, 0xf0, 0xd9, 0xf9],
   [0xa5, 0x1c, 0xa8, 0x12, 0x1b, 0xa0, 0x13, 0xa9, 0x05, 0xb5, 0x0a, 0xb8, 0x03, 0xb0, 0x0b, 0xb9],
   [0x32, 0x88, 0x3c, 0x85, 0x8d, 0x34, 0x84, 0x3d, 0x91, 0x22, 0x9c, 0x2c, 0x94, 0x24, 0x9d, 0x2d],
   [0x62, 0x4a, 0x6c, 0x45, 0x4d, 0x64, 0x44, 0x6d, 0x52, 0x72, 0x5c, 0x7c, 0x54, 0x74, 0x5d, 0x7d],
   [0xa1, 0x1a, 0xac, 0x15, 0x1d, 0xa4, 0x14, 0xad, 0x02, 0xb1, 0x0c, 0xbc, 0x04, 0xb4, 0x0d, 0xbd],
   [0xe1, 0xc8, 0xec, 0xc5, 0xcd, 0xe4, 0xc4, 0xed, 0xd1, 0xf1, 0xdc, 0xfc, 0xd4, 0xf4, 0xdd, 0xfd]]

/-- Rows hi = 8..F of the S8 table (40_engines.md R126). -/
def s8RowsHigh : List (List Byte) :=
  [[0x36, 0x8e, 0x38, 0x82, 0x8b, 0x30, 0x83, 0x39, 0x96, 0x26, 0x9a, 0x28, 0x93, 0x20, 0x9b, 0x29],
   [0x66, 0x4e, 0x68, 0x41, 0x49, 0x60, 0x40, 0x69, 0x56, 0x76, 0x58, 0x78, 0x50, 0x70, 0x59, 0x79],
   [0xa6, 0x1e, 0xaa, 0x11, 0x19, 0xa3, 0x10, 0xab, 0x06, 0xb6, 0x08, 0xba, 0x00, 0xb3, 0x09, 0xbb],
   [0xe6, 0xce, 0xea, 0xc2, 0xcb, 0xe3, 0xc3, 0xeb, 0xd6, 0xf6, 0xda, 0xfa, 0xd3, 0xf3, 0xdb, 0xfb],
   [0x31, 0x8a, 0x3e, 0x86, 0x8f, 0x37, 0x87, 0x3f, 0x92, 0x21, 0x9e, 0x2e, 0x97, 0x27, 0x9f, 0x2f],
   [0x61, 0x48, 0x6e, 0x46, 0x4f, 0x67, 0x47, 0x6f, 0x51, 0x71, 0x5e, 0x7e, 0x57, 0x77, 0x5f, 0x7f],
   [0xa2, 0x18, 0xae, 0x16, 0x1f, 0xa7, 0x17, 0xaf, 0x01, 0xb2, 0x0e, 0xbe, 0x07, 0xb7, 0x0f, 0xbf],
   [0xe2, 0xca, 0xee, 0xc6, 0xcf, 0xe7, 0xc7, 0xef, 0xd2, 0xf2, 0xde, 0xfe, 0xd7, 0xf7, 0xdf, 0xff]]

/-- Rows hi = 0..7 of the S8 inverse table (40_engines.md R127). -/
def s8InvRowsLow : List (List Byte) :=
  [[0xac, 0xe8, 0x68, 0x3c, 0x6c, 0x38, 0xa8, 0xec, 0xaa, 0xae, 0x3a, 0x3e, 0x6a, 0x6e, 0xea, 0xee],
   [0xa6, 0xa3, 0x33, 0x36, 0x66, 0x63, 0xe3, 0xe6, 0xe1, 0xa4, 0x61, 0x34, 0x31, 0x64, 0xa1, 0xe4],
   [0x8d, 0xc9, 0x49, 0x1d, 0x4d, 0x19, 0x89, 0xcd, 0x8b, 0x8f, 0x1b, 0x1f, 0x4b, 0x4f, 0xcb, 0xcf],
   [0x85, 0xc0, 0x40, 0x15, 0x45, 0x10, 0x80, 0xc5, 0x82, 0x87, 0x12, 0x17, 0x42, 0x47, 0xc2, 0xc7],
   [0x96, 0x93, 0x03, 0x06, 0x56, 0x53, 0xd3, 0xd6, 0xd1, 0x94, 0x51, 0x04, 0x01, 0x54, 0x91, 0xd4],
   [0x9c, 0xd8, 0x58, 0x0c, 0x5c, 0x08, 0x98, 0xdc, 0x9a, 0x9e, 0x0a, 0x0e, 0x5a, 0x5e, 0xda, 0xde],
   [0x95, 0xd0, 0x50, 0x05, 0x55, 0x00, 0x90, 0xd5, 0x92, 0x97, 0x02, 0x07, 0x52, 0x57, 0xd2, 0xd7],
   [0x9d, 0xd9, 0x59, 0x0d, 0x5d, 0x09, 0x99, 0xdd, 0x9b, 0x9f, 0x0b, 0x0f, 0x5b, 0x5f, 0xdb, 0xdf]]

/-- Rows hi = 8..F of the S8 inverse table (40_engines.md R127). -/
def s8InvRowsHigh : List (List Byte) :=
  [[0x16, 0x13, 0x83, 0x86, 0x46, 0x43, 0xc3, 0xc6, 0x41, 0x14, 0xc1, 0x84, 0x11, 0x44, 0x81, 0xc4],
   [0x1c, 0x48, 0xc8, 0x8c, 0x4c, 0x18, 0x88, 0xcc, 0x1a, 0x1e, 0x8a, 0x8e, 0x4a, 0x4e, 0xca, 0xce],
   [0x35, 0x60, 0xe0, 0xa5, 0x65, 0x30, 0xa0, 0xe5, 0x32, 0x37, 0xa2, 0xa7, 0x62, 0x67, 0xe2, 0xe7],
   [0x3d, 0x69, 0xe9, 0xad, 0x6d, 0x39, 0xa9, 0xed, 0x3b, 0x3f, 0xab, 0xaf, 0x6b, 0x6f, 0xeb, 0xef],
   [0x26, 0x23, 0xb3, 0xb6, 0x76, 0x73, 0xf3, 0xf6, 0x71, 0x24, 0xf1, 0xb4, 0x21, 0x74, 0xb1, 0xf4],
   [0x2c, 0x78, 0xf8, 0xbc, 0x7c, 0x28, 0xb8, 0xfc, 0x2a, 0x2e, 0xba, 0xbe, 0x7a, 0x7e, 0xfa, 0xfe],
   [0x25, 0x70, 0xf0, 0xb5, 0x75, 0x20, 0xb0, 0xf5, 0x22, 0x27, 0xb2, 0xb7, 0x72, 0x77, 0xf2, 0xf7],
   [0x2d, 0x79, 0xf9, 0xbd, 0x7d, 0x29, 0xb9, 0xfd, 0x2b, 0x2f, 0xbb, 0xbf, 0x7b, 0x7f, 0xfb, 0xff]]

/-- The S8 table, row hi (40_engines.md R126). -/
def s8Rows : List (List Byte) := s8RowsLow ++ s8RowsHigh

/-- The S8 inverse table, row hi (40_engines.md R127). -/
def s8InvRows : List (List Byte) := s8InvRowsLow ++ s8InvRowsHigh

/-- `T[x]` of a 16-entry table. -/
def lookup4 (table : List (BitVec 4)) (x : BitVec 4) : BitVec 4 := table.getD x.toNat 0

/-- `T[16·hi + lo]` of a 256-entry table written in rows of 16. -/
def lookup8 (rows : List (List Byte)) (x : Byte) : Byte := (rows.getD (x.toNat / 16) []).getD (x.toNat % 16) 0

/-- S4 (40_engines.md R123). -/
def sbox4 (x : BitVec 4) : BitVec 4 := lookup4 s4Table x

/-- S4inv (40_engines.md R124). -/
def sbox4Inv (x : BitVec 4) : BitVec 4 := lookup4 s4InvTable x

/-- SM (40_engines.md R128). -/
def sboxM (x : BitVec 4) : BitVec 4 := lookup4 smTable x

/-- S8 (40_engines.md R126). -/
def sbox8 (x : Byte) : Byte := lookup8 s8Rows x

/-- S8inv (40_engines.md R127). -/
def sbox8Inv (x : Byte) : Byte := lookup8 s8InvRows x

/-- `SubCells_T(s)`: `s'[i] = T(s[i])` (40_engines.md R120). -/
def subCells {w : Nat} (t : BitVec w → BitVec w) (s : Cells w) : Cells w := mapCells t s

/-! ### Cell permutations -/

/-- P_SR (40_engines.md R130, 90_conflicts.md C1). -/
def pSR : List Nat := [0, 1, 2, 3, 7, 4, 5, 6, 10, 11, 8, 9, 13, 14, 15, 12]

/-- P_SRinv (40_engines.md R131). -/
def pSRInv : List Nat := [0, 1, 2, 3, 5, 6, 7, 4, 10, 11, 8, 9, 15, 12, 13, 14]

/-- P_M (40_engines.md R132, 90_conflicts.md C1). -/
def pM : List Nat := [0, 11, 6, 13, 10, 1, 12, 7, 5, 14, 3, 8, 15, 4, 9, 2]

/-- P_Minv (40_engines.md R133). -/
def pMInv : List Nat := [0, 5, 15, 10, 13, 8, 2, 7, 11, 14, 4, 1, 6, 3, 9, 12]

/-- P_T (40_engines.md R137). -/
def pT : List Nat := [9, 15, 8, 13, 10, 14, 12, 11, 0, 1, 2, 3, 4, 5, 6, 7]

/-- P_Tinv (40_engines.md R137). -/
def pTInv : List Nat := [8, 9, 10, 11, 12, 13, 14, 15, 2, 0, 4, 7, 6, 3, 5, 1]

/-- P_H (40_engines.md R138). -/
def pH : List Nat := [6, 5, 14, 15, 0, 1, 2, 3, 7, 12, 13, 4, 8, 9, 10, 11]

/-- P_Hinv (40_engines.md R138). -/
def pHInv : List Nat := [4, 5, 6, 7, 11, 1, 0, 8, 12, 13, 14, 15, 9, 10, 2, 3]

/-- ShiftRows (40_engines.md R130). -/
def shiftRows {w : Nat} (s : Cells w) : Cells w := permute pSR s

/-- InvShiftRows (40_engines.md R131). -/
def invShiftRows {w : Nat} (s : Cells w) : Cells w := permute pSRInv s

/-- PermuteCells (40_engines.md R132). -/
def permuteCells {w : Nat} (s : Cells w) : Cells w := permute pM s

/-- InvPermuteCells (40_engines.md R133). -/
def invPermuteCells {w : Nat} (s : Cells w) : Cells w := permute pMInv s

/-- PermTK (40_engines.md R137). -/
def permTK {w : Nat} (s : Cells w) : Cells w := permute pT s

/-- The inverse of PermTK (40_engines.md R137). -/
def invPermTK {w : Nat} (s : Cells w) : Cells w := permute pTInv s

/-- H (40_engines.md R138). -/
def tweakH {w : Nat} (s : Cells w) : Cells w := permute pH s

/-- Hinv (40_engines.md R138). -/
def tweakHInv {w : Nat} (s : Cells w) : Cells w := permute pHInv s

/-! ### MixColumns -/

/-- MixColumns of Skinny: cell `4r + c` from column `c` (40_engines.md R134). -/
def mixColumns {w : Nat} (s : Cells w) : Cells w :=
  cellsOf fun n =>
    let a := fun r => cellAt s (4 * r + n % 4)
    match n / 4 with
    | 0 => a 0 ^^^ a 2 ^^^ a 3
    | 1 => a 0
    | 2 => a 1 ^^^ a 2
    | _ => a 0 ^^^ a 2

/-- InvMixColumns of Skinny (40_engines.md R135). -/
def invMixColumns {w : Nat} (s : Cells w) : Cells w :=
  cellsOf fun n =>
    let b := fun r => cellAt s (4 * r + n % 4)
    match n / 4 with
    | 0 => b 1
    | 1 => b 1 ^^^ b 2 ^^^ b 3
    | 2 => b 1 ^^^ b 3
    | _ => b 0 ^^^ b 3

/-- MixColumnsM of Mantis, its own inverse (40_engines.md R136, 90_conflicts.md C11). -/
def mixColumnsM {w : Nat} (s : Cells w) : Cells w :=
  cellsOf fun n =>
    let a := fun r => cellAt s (4 * r + n % 4)
    a 0 ^^^ a 1 ^^^ a 2 ^^^ a 3 ^^^ cellAt s n

/-! ### LFSRs -/

/-- LFSR2_8 (40_engines.md R139). -/
def lfsr2w8 (x : Byte) : Byte := ((x <<< 1) &&& 0xFE) ^^^ (((x >>> 7) ^^^ (x >>> 5)) &&& 0x01)

/-- LFSR2_4 (40_engines.md R139). -/
def lfsr2w4 (x : BitVec 4) : BitVec 4 := ((x <<< 1) &&& 0xE) ^^^ (((x >>> 3) ^^^ (x >>> 2)) &&& 0x1)

/-- LFSR3_8 (40_engines.md R140). -/
def lfsr3w8 (x : Byte) : Byte := ((x >>> 1) &&& 0x7F) ^^^ (((x <<< 7) ^^^ (x <<< 1)) &&& 0x80)

/-- LFSR3_4 (40_engines.md R140). -/
def lfsr3w4 (x : BitVec 4) : BitVec 4 := ((x >>> 1) &&& 0x7) ^^^ (((x <<< 3) ^^^ x) &&& 0x8)

/-- What a Skinny family takes from its cell width: the S-box and its inverse, and the LFSRs. -/
structure Engine (w : Nat) where
  sbox : BitVec w → BitVec w
  sboxInv : BitVec w → BitVec w
  lfsr2 : BitVec w → BitVec w
  lfsr3 : BitVec w → BitVec w

/-- Skinny-64: 4-bit cells. -/
def engine4 : Engine 4 := ⟨sbox4, sbox4Inv, lfsr2w4, lfsr3w4⟩

/-- Skinny-128: 8-bit cells. -/
def engine8 : Engine 8 := ⟨sbox8, sbox8Inv, lfsr2w8, lfsr3w8⟩

end Sys2Proof.Machine
end

