-- ==== Sys2Proof/Machine/Schedule.lean ====
section
/-! DEFINITION. The tweakey schedule expander and the key material of both cipher kinds
(41_key_setup.md R170-R181). -/

namespace Sys2Proof.Machine

/-- The block size in bytes (30_encoding.md R93). -/
def blockSize : Cipher → Nat
  | .s64 => 8
  | .s128 => 16
  | .mantis => 8

/-- N(c, z), the Skinny round count (00_scope.md R3). -/
def roundCount (c : Cipher) (z : Nat) : Nat :=
  match c, z with
  | .s64, 1 => 32
  | .s64, 2 => 36
  | .s64, 3 => 40
  | .s128, 1 => 40
  | .s128, 2 => 48
  | .s128, 3 => 56
  | _, _ => 0

/-! ### Round constants -/

/-- `rcnext` (41_key_setup.md R171). -/
def rcNext (rc : BitVec 6) : BitVec 6 :=
  (rc <<< 1) ^^^ ((rc >>> 5) &&& 1) ^^^ ((rc >>> 4) &&& 1) ^^^ 1

/-- `RC(r) = rcnext^(r+1)(0)` (41_key_setup.md R171). -/
def roundConstant : Nat → BitVec 6
  | 0 => rcNext 0
  | r + 1 => rcNext (roundConstant r)

/-! ### Tweakey words -/

/-- The LFSR step on the low rows: cells 0..7 go through `f`, cells 8..15 pass (41_key_setup.md R175). -/
def lowRows {w : Nat} (f : BitVec w → BitVec w) (t : Cells w) : Cells w :=
  cellsOf fun i => if i < 8 then f (cellAt t i) else cellAt t i

/-- `TKstep(tk, z)` (41_key_setup.md R175). -/
def tkStep {w : Nat} (e : Engine w) (z : Nat) (tk : Tweakeys w) : Tweakeys w :=
  { t0 := if 1 ≤ z then permTK tk.t0 else tk.t0
    t1 := if 2 ≤ z then lowRows e.lfsr2 (permTK tk.t1) else tk.t1
    t2 := if 3 ≤ z then lowRows e.lfsr3 (permTK tk.t2) else tk.t2 }

/-- `TK^(r) = TKstep^r(tk, z)` (41_key_setup.md R176). -/
def tkAfter {w : Nat} (e : Engine w) (z : Nat) (tk : Tweakeys w) : Nat → Tweakeys w
  | 0 => tk
  | r + 1 => tkStep e z (tkAfter e z tk r)

/-- The XOR over `j < z` of cell `i` of the tweakey words (41_key_setup.md R176). -/
def tkSum {w : Nat} (z : Nat) (tk : Tweakeys w) (i : Nat) : BitVec w :=
  (if 1 ≤ z then cellAt tk.t0 i else 0) ^^^ (if 2 ≤ z then cellAt tk.t1 i else 0)
    ^^^ (if 3 ≤ z then cellAt tk.t2 i else 0)

/-- The round key of round `r` (41_key_setup.md R176), with the round constant in cells 0 and 4 and the
tweak domain bit 0x2 in cell 2 (R177). -/
def roundKey {w : Nat} (e : Engine w) (z : Nat) (tweaked : Bool) (tk : Tweakeys w) (r : Nat) : HalfCells w :=
  let t := tkAfter e z tk r
  let rc := (roundConstant r).toNat
  { r0 := tkSum z t 0 ^^^ BitVec.ofNat w (rc % 16)
    r1 := tkSum z t 1
    r2 := tkSum z t 2 ^^^ (if tweaked then BitVec.ofNat w 2 else 0)
    r3 := tkSum z t 3
    r4 := tkSum z t 4 ^^^ BitVec.ofNat w (rc / 16)
    r5 := tkSum z t 5
    r6 := tkSum z t 6
    r7 := tkSum z t 7 }

/-- The tweakey words of a slot in a given cell width. -/
def slotWords (w : Nat) (slot : KeySlot) : Tweakeys w :=
  ⟨resizeCells w slot.tk.t0, resizeCells w slot.tk.t1, resizeCells w slot.tk.t2⟩

/-- `RK(slot, r)` (41_key_setup.md R176). -/
def slotRoundKey {w : Nat} (e : Engine w) (slot : KeySlot) (r : Nat) : HalfCells w :=
  roundKey e slot.z slot.tweaked (slotWords w slot) r

/-! ### Loading a key -/

/-- A block of bytes as one tweakey word of a slot: `Cells_w`, kept in 8-bit cells (20_memory.md R68;
log 7). -/
def slotCells (c : Cipher) (b : List Byte) : Cells 8 :=
  match c with
  | .s64 => resizeCells 8 (cells4 b)
  | .s128 => cells8 b
  | .mantis => resizeCells 8 (cells4 b)

/-- The `j`-th block-sized word of the key bytes: `key[j·bs .. j·bs+bs-1]` (20_memory.md R72). -/
def keyWord (c : Cipher) (key : List Byte) (j : Nat) : Cells 8 :=
  slotCells c ((key.drop (j * blockSize c)).take (blockSize c))

/-- `LoadSkinny(c, key, 0)` with `z` key words (41_key_setup.md R173). -/
def loadSkinny (c : Cipher) (z : Nat) (key : List Byte) : KeySlot :=
  { zeroSlot with
    valid := true, cipher := c, tweaked := false, z := z, rounds := roundCount c z
    tk :=
      { t0 := if 0 < z then keyWord c key 0 else zeroCells 8
        t1 := if 1 < z then keyWord c key 1 else zeroCells 8
        t2 := if 2 < z then keyWord c key 2 else zeroCells 8 } }

/-- `LoadSkinny(c, key, 1)` with `m` key words: TK1 is the zero tweak (41_key_setup.md R174). -/
def loadSkinnyTweaked (c : Cipher) (m : Nat) (key : List Byte) : KeySlot :=
  { zeroSlot with
    valid := true, cipher := c, tweaked := true, z := m + 1, rounds := roundCount c (m + 1)
    tk :=
      { t0 := zeroCells 8
        t1 := if 0 < m then keyWord c key 0 else zeroCells 8
        t2 := if 1 < m then keyWord c key 1 else zeroCells 8 } }

/-- α (42_block_crypt.md R225). -/
def mantisAlpha : BitVec 64 := 0x243f6a8885a308d3

/-- `k0' = rotr_64(k0, 1) ⊕ (k0 >> 63)` (41_key_setup.md R179). -/
def k0Prime (k0 : BitVec 64) : BitVec 64 := k0.rotateRight 1 ^^^ (k0 >>> 63)

/-- `Swap(slot)` (41_key_setup.md R180). -/
def swapSlot (slot : KeySlot) : KeySlot :=
  { slot with k0 := slot.k0p, k0p := slot.k0, k1 := slot.k1 ^^^ mantisAlpha, mode := !slot.mode }

/-- `LoadMantis(key[0..15], r, m)` (41_key_setup.md R179). -/
def loadMantis (key : List Byte) (r : Nat) (m : Bool) : KeySlot :=
  let k0 := be64 (key.take 8)
  let slot : KeySlot :=
    { zeroSlot with
      valid := true, cipher := .mantis, tweaked := true, z := 0, rounds := r
      k0 := k0, k0p := k0Prime k0, k1 := be64 ((key.drop 8).take 8), mode := false, tweak := 0 }
  if m then swapSlot slot else slot

/-- A new tweak in a slot: T of a Mantis slot, TK1 of a Skinny slot (41_key_setup.md R188, R181). -/
def retweakSlot (slot : KeySlot) (c : Cipher) (tb : List Byte) : KeySlot :=
  match c with
  | .mantis => { slot with tweak := be64 tb }
  | .s64 => { slot with tk := { slot.tk with t0 := slotCells .s64 tb } }
  | .s128 => { slot with tk := { slot.tk with t0 := slotCells .s128 tb } }

end Sys2Proof.Machine
end

