-- ==== Sys2Proof/Machine/Rounds.lean ====
section
/-! DEFINITION. The round sequencer: Skinny encryption and decryption and the Mantis reflector
(42_block_crypt.md R220-R229). -/

namespace Sys2Proof.Machine

/-! ### Skinny -/

/-- The round key into rows 0 and 1, and the fixed 0x2 into cell 8 (42_block_crypt.md R221,
90_conflicts.md C5). An involution (C10). -/
def addRoundKey {w : Nat} (s : Cells w) (rk : HalfCells w) : Cells w :=
  { s with
    c0 := s.c0 ^^^ rk.r0, c1 := s.c1 ^^^ rk.r1, c2 := s.c2 ^^^ rk.r2, c3 := s.c3 ^^^ rk.r3
    c4 := s.c4 ^^^ rk.r4, c5 := s.c5 ^^^ rk.r5, c6 := s.c6 ^^^ rk.r6, c7 := s.c7 ^^^ rk.r7
    c8 := s.c8 ^^^ BitVec.ofNat w 2 }

/-- `SkinnyRound_w` (42_block_crypt.md R221). -/
def skinnyRound {w : Nat} (e : Engine w) (s : Cells w) (rk : HalfCells w) : Cells w :=
  mixColumns (shiftRows (addRoundKey (subCells e.sbox s) rk))

/-- `SkinnyInvRound_w` (42_block_crypt.md R223). -/
def skinnyInvRound {w : Nat} (e : Engine w) (s : Cells w) (rk : HalfCells w) : Cells w :=
  subCells e.sboxInv (addRoundKey (invShiftRows (invMixColumns s)) rk)

/-- Rounds 0 .. n-1 (42_block_crypt.md R222). -/
def skinnyRounds {w : Nat} (e : Engine w) (rk : Nat → HalfCells w) : Nat → Cells w → Cells w
  | 0, s => s
  | n + 1, s => skinnyRound e (skinnyRounds e rk n s) (rk n)

/-- Inverse rounds n-1 down to 0 (42_block_crypt.md R224). -/
def skinnyInvRounds {w : Nat} (e : Engine w) (rk : Nat → HalfCells w) : Nat → Cells w → Cells w
  | 0, s => s
  | n + 1, s => skinnyInvRounds e rk n (skinnyInvRound e s (rk n))

/-- `SkinnyEncrypt(slot, b)` (42_block_crypt.md R222). The cell width is the cipher's: 8 bits for
Skinny-128, else 4. -/
def skinnyEncrypt (slot : KeySlot) (b : List Byte) : List Byte :=
  match slot.cipher with
  | .s128 => bytes8 (skinnyRounds engine8 (slotRoundKey engine8 slot) slot.rounds (cells8 b))
  | .s64 => bytes4 (skinnyRounds engine4 (slotRoundKey engine4 slot) slot.rounds (cells4 b))
  | .mantis => bytes4 (skinnyRounds engine4 (slotRoundKey engine4 slot) slot.rounds (cells4 b))

/-- `SkinnyDecrypt(slot, b)` (42_block_crypt.md R224). -/
def skinnyDecrypt (slot : KeySlot) (b : List Byte) : List Byte :=
  match slot.cipher with
  | .s128 => bytes8 (skinnyInvRounds engine8 (slotRoundKey engine8 slot) slot.rounds (cells8 b))
  | .s64 => bytes4 (skinnyInvRounds engine4 (slotRoundKey engine4 slot) slot.rounds (cells4 b))
  | .mantis => bytes4 (skinnyInvRounds engine4 (slotRoundKey engine4 slot) slot.rounds (cells4 b))

/-! ### Mantis -/

/-- RC_0 .. RC_7 (42_block_crypt.md R225). -/
def mantisConstants : List (BitVec 64) :=
  [0x13198a2e03707344, 0xa4093822299f31d0, 0x082efa98ec4e6c89, 0x452821e638d01377,
   0xbe5466cf34e90c6c, 0xc0ac29b7c97c50dd, 0x3f84d5b5b5470917, 0x9216d5d98979fb1b]

/-- RC_i (42_block_crypt.md R225). -/
def mantisConstant (i : Nat) : BitVec 64 := mantisConstants.getD i 0

/-- The cell state and the running tweak of a Mantis operation. -/
structure MantisState where
  s : Cells 4
  t : Cells 4
deriving DecidableEq, Repr

/-- Forward round `i` (42_block_crypt.md R226). -/
def mantisRound (k1 : BitVec 64) (i : Nat) (m : MantisState) : MantisState :=
  let t := tweakH m.t
  let s := subCells sboxM m.s
  let s := xorCells s (nibbles (mantisConstant i))
  let s := xorCells s (xorCells (nibbles k1) t)
  ⟨mixColumnsM (permuteCells s), t⟩

/-- The middle (42_block_crypt.md R227). -/
def mantisMiddle (s : Cells 4) : Cells 4 := subCells sboxM (mixColumnsM (subCells sboxM s))

/-- Reverse round `i` with the adjusted key word (42_block_crypt.md R228). -/
def mantisInvRound (k1a : BitVec 64) (i : Nat) (m : MantisState) : MantisState :=
  let s := invPermuteCells (mixColumnsM m.s)
  let s := xorCells s (xorCells (nibbles k1a) m.t)
  let s := xorCells s (nibbles (mantisConstant i))
  ⟨subCells sboxM s, tweakHInv m.t⟩

/-- Forward rounds 0 .. r-1 (42_block_crypt.md R229). -/
def mantisForward (k1 : BitVec 64) : Nat → MantisState → MantisState
  | 0, m => m
  | r + 1, m => mantisRound k1 r (mantisForward k1 r m)

/-- Reverse rounds r-1 down to 0 (42_block_crypt.md R229). -/
def mantisReverse (k1a : BitVec 64) : Nat → MantisState → MantisState
  | 0, m => m
  | r + 1, m => mantisReverse k1a r (mantisInvRound k1a r m)

/-- A whitening: `s ⊕ (a ⊕ b ⊕ T)` (42_block_crypt.md R229). -/
def mantisWhiten (a b : BitVec 64) (m : MantisState) : MantisState :=
  { m with s := xorCells m.s (xorCells (nibbles (a ^^^ b)) m.t) }

/-- `MantisCrypt(slot, b, T0)` (42_block_crypt.md R229). -/
def mantisCrypt (slot : KeySlot) (b : List Byte) (t0 : BitVec 64) : List Byte :=
  let k1 := slot.k1
  let k1a := k1 ^^^ mantisAlpha
  let m := mantisWhiten slot.k0 k1 ⟨cells4 b, nibbles t0⟩
  let m := mantisForward k1 slot.rounds m
  let m : MantisState := { m with s := mantisMiddle m.s }
  let m := mantisReverse k1a slot.rounds m
  bytes4 (mantisWhiten slot.k0p k1a m).s

/-- The block function E of a slot: SkinnyEncrypt, or MantisCrypt under the slot's tweak
(42_block_crypt.md R235, 43_ctr.md R260). -/
def blockEncrypt (slot : KeySlot) (b : List Byte) : List Byte :=
  match slot.cipher with
  | .mantis => mantisCrypt slot b slot.tweak
  | .s64 => skinnyEncrypt slot b
  | .s128 => skinnyEncrypt slot b

end Sys2Proof.Machine
end

