-- ==== Sys2Proof/Machine/Operands.lean ====
section
/-! DEFINITION. The operands a command reads from its Latch (10_state.md R37, 30_encoding.md R94, R95) and the legal
lengths of each kind. -/

namespace Sys2Proof.Machine

/-- The key operand: KEY[0..L-1] of the Latch (10_state.md R27). -/
def State.keyOperand (s : State) (len : BitVec 9) : List Byte := s.latch.key.take len.toNat

/-- The tweak operand: zero when null, else TWEAK[0..L-1] with zeros on the right up to the block size
(41_key_setup.md R188). -/
def State.tweakOperand (s : State) (c : Cipher) (nullp : Bool) (len : BitVec 9) : List Byte :=
  if nullp then List.replicate (blockSize c) 0
  else s.latch.tweak.take len.toNat ++ List.replicate (blockSize c - len.toNat) 0

/-- The counter operand: zero when null, else COUNTER[0..L-1] with zeros on the left up to the block size
(43_ctr.md R269). -/
def State.counterOperand (s : State) (c : Cipher) (nullp : Bool) (len : BitVec 9) : List Byte :=
  if nullp then List.replicate (blockSize c) 0
  else List.replicate (blockSize c - len.toNat) 0 ++ s.latch.counter.take len.toNat

/-- The block operand: BLOCK_IN[0..bs-1] of the Latch (10_state.md R30). -/
def State.blockOperand (s : State) (c : Cipher) : List Byte := s.latch.blockIn.take (blockSize c)

/-- The explicit tweak of CRYPT_TWEAKED: BE(TWEAK[0..7]) of the Latch (42_block_crypt.md R237). -/
def State.explicitTweak (s : State) : BitVec 64 := be64 (s.latch.tweak.take 8)

/-- The stream operand: DATA_IN[0..L-1] of the Latch (43_ctr.md R271). -/
def State.streamOperand (s : State) (len : BitVec 9) : List Byte := s.latch.dataIn.take len.toNat

/-- The number of block-sized words in `len` bytes, when `len` is `n` of them for some `n` in 1..`most`; else 0. -/
def wordCount (c : Cipher) (most : Nat) (len : BitVec 9) : Nat :=
  let n := len.toNat / blockSize c
  if len.toNat = n * blockSize c ∧ n ≤ most then n else 0

/-- `L ∈ {bs, 2·bs, 3·bs}` (41_key_setup.md R185, 43_ctr.md R266). -/
def keyLengthOk (c : Cipher) (len : BitVec 9) : Bool := wordCount c 3 len != 0

/-- `L ∈ {bs, 2·bs}` (41_key_setup.md R187, 43_ctr.md R267). -/
def tweakedKeyLengthOk (c : Cipher) (len : BitVec 9) : Bool := wordCount c 2 len != 0

/-- `L = 16` and `r ∈ 5..8` (41_key_setup.md R186, 43_ctr.md R266). -/
def mantisKeyOk (len : BitVec 9) (rounds : BitVec 4) : Bool :=
  len.toNat == 16 && decide (5 ≤ rounds.toNat) && decide (rounds.toNat ≤ 8)

/-- The PARAM condition of SET_KEY and CTR_SET_KEY: a null key, or a length or a round count outside the legal
set (41_key_setup.md R185, R186, 43_ctr.md R266). -/
def badKeyOperand (c : Cipher) (nullp : Bool) (len : BitVec 9) (rounds : BitVec 4) : Bool :=
  nullp || !(match c with
    | .mantis => mantisKeyOk len rounds
    | .s64 => keyLengthOk .s64 len
    | .s128 => keyLengthOk .s128 len)

/-- The PARAM condition of the tweaked key commands (41_key_setup.md R187, 43_ctr.md R267). -/
def badTweakedKeyOperand (c : Cipher) (nullp : Bool) (len : BitVec 9) : Bool :=
  nullp || !tweakedKeyLengthOk c len

/-- The PARAM condition of tweaks and counters: null with a length, or longer than a block (41_key_setup.md R188,
43_ctr.md R268, R269). -/
def badBlockOperand (c : Cipher) (nullp : Bool) (len : BitVec 9) : Bool :=
  (nullp && len != 0) || decide (blockSize c < len.toNat)

/-- The slot an untweaked key command loads: LoadSkinny or LoadMantis (41_key_setup.md R185, R186). -/
def State.loadedSlot (s : State) (c : Cipher) (len : BitVec 9) (rounds : BitVec 4) (mode : Bool) : KeySlot :=
  match c with
  | .mantis => loadMantis (s.keyOperand len) rounds.toNat mode
  | .s64 => loadSkinny .s64 (wordCount .s64 3 len) (s.keyOperand len)
  | .s128 => loadSkinny .s128 (wordCount .s128 3 len) (s.keyOperand len)

/-- The slot a tweaked key command loads (41_key_setup.md R187). -/
def State.loadedTweakedSlot (s : State) (c : Cipher) (len : BitVec 9) : KeySlot :=
  loadSkinnyTweaked c (wordCount c 2 len) (s.keyOperand len)

end Sys2Proof.Machine
end

