-- ==== Sys2Proof/Machine/BlockCrypt.lean ====
section
/-! DEFINITION. The block commands (42_block_crypt.md R235-R237). -/

namespace Sys2Proof.Machine

/-- ENCRYPT_BLOCK (42_block_crypt.md R235). -/
def execEncryptBlock (c : Cipher) (s : State) : Host.Outcome State Fault Refusal :=
  command (.encryptBlock c) (blockKeyChecks s c) (s.putBlockOut (blockEncrypt s.bk (s.blockOperand c))) s

/-- DECRYPT_BLOCK (42_block_crypt.md R236). -/
def execDecryptBlock (c : Cipher) (s : State) : Host.Outcome State Fault Refusal :=
  command (.decryptBlock c) (blockKeyChecks s c) (s.putBlockOut (skinnyDecrypt s.bk (s.blockOperand c))) s

/-- CRYPT_TWEAKED (42_block_crypt.md R237). -/
def execCryptTweaked (c : Cipher) (s : State) : Host.Outcome State Fault Refusal :=
  command (.cryptTweaked c) (blockKeyChecks s c)
    (s.putBlockOut (mantisCrypt s.bk (s.blockOperand c) s.explicitTweak)) s

end Sys2Proof.Machine
end

