-- ==== Sys2Proof/Machine/Ctr.lean ====
section
/-! DEFINITION. The CTR streaming unit and its commands (43_ctr.md R260-R272). -/

namespace Sys2Proof.Machine

/-- The modulus of the counter, `2^(8·bs)` (43_ctr.md R270). -/
def counterModulus (c : Cipher) : Nat := 2 ^ (8 * blockSize c)

/-- The size of the keystream buffer, `K·bs` (10_state.md R47). -/
def bufferSize (k : Nat) (c : Cipher) : Nat := k * blockSize c

/-- Keystream block `v`: `E(ks, BE_bs^-1(v mod M))` (43_ctr.md R260, R261). -/
def keystreamBlock (cx : CtrContext) (v : Nat) : List Byte :=
  blockEncrypt cx.ks (beBytes (blockSize cx.cipher) (v % counterModulus cx.cipher))

/-- `Refill()` with `k` lanes (43_ctr.md R261). -/
def refill (k : Nat) (cx : CtrContext) : CtrContext :=
  { cx with
    buf := (List.range k).flatMap fun j => keystreamBlock cx (cx.c + j)
    c := (cx.c + k) % counterModulus cx.cipher
    offset := 0 }

/-- The context with at least one unused keystream byte: refilled when exhausted (43_ctr.md R261, R271). -/
def readied (k : Nat) (cx : CtrContext) : CtrContext :=
  if bufferSize k cx.cipher ≤ cx.offset then refill k cx else cx

/-- The loop of CTR_ENCRYPT over the input bytes: the output bytes and the context after them
(43_ctr.md R271). -/
def ctrStream (k : Nat) : CtrContext → List Byte → List Byte × CtrContext
  | cx, [] => ([], cx)
  | cx, x :: xs =>
    let cx := readied k cx
    let rest := ctrStream k { cx with offset := cx.offset + 1 } xs
    ((x ^^^ cx.buf.getD cx.offset 0) :: rest.1, rest.2)

/-- The context with its keystream discarded: `offset = K·bs` (43_ctr.md R263). -/
def exhausted (k : Nat) (cx : CtrContext) : CtrContext := { cx with offset := bufferSize k cx.cipher }

/-- The context CTR_INIT makes (43_ctr.md R265). -/
def initContext (k : Nat) (c : Cipher) : CtrContext :=
  { init := true, cipher := c, ks := zeroSlot, c := 0
    buf := List.replicate (bufferSize k c) 0, offset := bufferSize k c }

/-- CTR_INIT (43_ctr.md R265). -/
def execCtrInit (c : Cipher) (s : State) : Host.Outcome State Fault Refusal :=
  command (.ctrInit c) [] { s with cx := initContext s.cfg.lanes.count c } s

/-- CTR_SET_KEY (43_ctr.md R266). A CTR Mantis key is in encrypt orientation. -/
def execCtrSetKey (c : Cipher) (nullp : Bool) (len : BitVec 9) (rounds : BitVec 4) (s : State) :
    Host.Outcome State Fault Refusal :=
  command (.ctrSetKey c nullp len rounds)
    (contextChecks s c ++ [(badKeyOperand c nullp len rounds, .param)])
    { s with cx := exhausted s.cfg.lanes.count { s.cx with ks := s.loadedSlot c len rounds false } } s

/-- CTR_SET_TWEAKED_KEY (43_ctr.md R267). -/
def execCtrSetTweakedKey (c : Cipher) (nullp : Bool) (len : BitVec 9) (s : State) :
    Host.Outcome State Fault Refusal :=
  command (.ctrSetTweakedKey c nullp len)
    (contextChecks s c ++ [(badTweakedKeyOperand c nullp len, .param)])
    { s with cx := exhausted s.cfg.lanes.count { s.cx with ks := s.loadedTweakedSlot c len } } s

/-- CTR_SET_TWEAK (43_ctr.md R268). -/
def execCtrSetTweak (c : Cipher) (nullp : Bool) (len : BitVec 9) (s : State) :
    Host.Outcome State Fault Refusal :=
  command (.ctrSetTweak c nullp len)
    (contextChecks s c ++
      [(!s.cx.ks.valid, .nokey), (!s.cx.ks.tweaked, .notweak), (badBlockOperand c nullp len, .param)])
    { s with
      cx := exhausted s.cfg.lanes.count
        { s.cx with ks := retweakSlot s.cx.ks c (s.tweakOperand c nullp len) } } s

/-- CTR_SET_COUNTER (43_ctr.md R269). -/
def execCtrSetCounter (c : Cipher) (nullp : Bool) (len : BitVec 9) (s : State) :
    Host.Outcome State Fault Refusal :=
  command (.ctrSetCounter c nullp len)
    (contextChecks s c ++ [(badBlockOperand c nullp len, .param)])
    { s with
      cx := exhausted s.cfg.lanes.count { s.cx with c := beNat (s.counterOperand c nullp len) } } s

/-- CTR_ENCRYPT (43_ctr.md R271). -/
def execCtrEncrypt (c : Cipher) (nullp : Bool) (len : BitVec 9) (s : State) :
    Host.Outcome State Fault Refusal :=
  let done := ctrStream s.cfg.lanes.count s.cx (s.streamOperand len)
  command (.ctrEncrypt c nullp len)
    (contextChecks s c ++
      [(!s.cx.ks.valid, .nokey), (nullp || decide (streamBytes < len.toNat), .param)])
    { s.putDataOut done.1 with cx := done.2 } s

/-- CTR_CLEANUP (43_ctr.md R272). -/
def execCtrCleanup (c : Cipher) (s : State) : Host.Outcome State Fault Refusal :=
  command (.ctrCleanup c) [] { s with cx := zeroContext s.cfg.lanes.count } s

end Sys2Proof.Machine
end

