-- ==== Sys2Proof/Machine/KeySetup.lean ====
section
/-! DEFINITION. The key-setup commands (41_key_setup.md R185-R190). -/

namespace Sys2Proof.Machine

/-- SET_KEY (41_key_setup.md R185, R186). -/
def execSetKey (c : Cipher) (nullp : Bool) (len : BitVec 9) (rounds : BitVec 4) (mode : Bool) (s : State) :
    Host.Outcome State Fault Refusal :=
  command (.setKey c nullp len rounds mode)
    [(badKeyOperand c nullp len rounds, .param)]
    { s with bk := s.loadedSlot c len rounds mode } s

/-- SET_TWEAKED_KEY (41_key_setup.md R187). -/
def execSetTweakedKey (c : Cipher) (nullp : Bool) (len : BitVec 9) (s : State) :
    Host.Outcome State Fault Refusal :=
  command (.setTweakedKey c nullp len)
    [(badTweakedKeyOperand c nullp len, .param)]
    { s with bk := s.loadedTweakedSlot c len } s

/-- SET_TWEAK (41_key_setup.md R188). -/
def execSetTweak (c : Cipher) (nullp : Bool) (len : BitVec 9) (s : State) :
    Host.Outcome State Fault Refusal :=
  command (.setTweak c nullp len)
    (blockKeyChecks s c ++ [(!s.bk.tweaked, .notweak), (badBlockOperand c nullp len, .param)])
    { s with bk := retweakSlot s.bk c (s.tweakOperand c nullp len) } s

/-- SWAP_MODES (41_key_setup.md R189). -/
def execSwapModes (c : Cipher) (s : State) : Host.Outcome State Fault Refusal :=
  command (.swapModes c) (blockKeyChecks s c) { s with bk := swapSlot s.bk } s

/-- CLEAR_KEY (41_key_setup.md R190). -/
def execClearKey (c : Cipher) (s : State) : Host.Outcome State Fault Refusal :=
  command (.clearKey c) [] { s with bk := zeroSlot } s

end Sys2Proof.Machine
end

