-- ==== Sys2Proof/Machine/Prims.lean ====
section
/-! DEFINITION. The PRIM_* commands: one engine function on one block (40_engines.md R145-R155). -/

namespace Sys2Proof.Machine

/-- `PRIM(f, c)`: cells of the block, the engine function of the cipher, bytes (40_engines.md R145). -/
def primBlock (f64 : Cells 4 → Cells 4) (f128 : Cells 8 → Cells 8) (fM : Cells 4 → Cells 4) (c : Cipher)
    (b : List Byte) : List Byte :=
  match c with
  | .s64 => bytes4 (f64 (cells4 b))
  | .s128 => bytes8 (f128 (cells8 b))
  | .mantis => bytes4 (fM (cells4 b))

/-- PRIM_SBOX on a block (40_engines.md R146). -/
def primSboxBlock : Cipher → List Byte → List Byte :=
  primBlock (subCells sbox4) (subCells sbox8) (subCells sboxM)

/-- PRIM_INV_SBOX on a block (40_engines.md R147). -/
def primInvSboxBlock : Cipher → List Byte → List Byte :=
  primBlock (subCells sbox4Inv) (subCells sbox8Inv) (subCells sboxM)

/-- PRIM_SHIFT_ROWS on a block (40_engines.md R148). -/
def primShiftRowsBlock : Cipher → List Byte → List Byte := primBlock shiftRows shiftRows permuteCells

/-- PRIM_INV_SHIFT_ROWS on a block (40_engines.md R149). -/
def primInvShiftRowsBlock : Cipher → List Byte → List Byte :=
  primBlock invShiftRows invShiftRows invPermuteCells

/-- PRIM_MIX_COLUMNS on a block (40_engines.md R150). -/
def primMixColumnsBlock : Cipher → List Byte → List Byte := primBlock mixColumns mixColumns mixColumnsM

/-- PRIM_INV_MIX_COLUMNS on a block (40_engines.md R151). -/
def primInvMixColumnsBlock : Cipher → List Byte → List Byte :=
  primBlock invMixColumns invMixColumns mixColumnsM

/-- PRIM_TWEAK_PERM on a block (40_engines.md R152). -/
def primTweakPermBlock : Cipher → List Byte → List Byte := primBlock permTK permTK tweakH

/-- PRIM_INV_TWEAK_PERM on a block (40_engines.md R153). -/
def primInvTweakPermBlock : Cipher → List Byte → List Byte := primBlock invPermTK invPermTK tweakHInv

/-- PRIM_LFSR2 on a block (40_engines.md R154). The Mantis form is ILLEGAL and is never reached. -/
def primLfsr2Block : Cipher → List Byte → List Byte :=
  primBlock (mapCells lfsr2w4) (mapCells lfsr2w8) (mapCells lfsr2w4)

/-- PRIM_LFSR3 on a block (40_engines.md R155). The Mantis form is ILLEGAL and is never reached. -/
def primLfsr3Block : Cipher → List Byte → List Byte :=
  primBlock (mapCells lfsr3w4) (mapCells lfsr3w8) (mapCells lfsr3w4)

/-- A PRIM_* command: only ILLEGAL can fail, and the result goes to BLOCK_OUT (40_engines.md R145). -/
def primCommand (i : Instr) (f : Cipher → List Byte → List Byte) (c : Cipher) (s : State) :
    Host.Outcome State Fault Refusal :=
  command i [] (s.putBlockOut (f c (s.blockOperand c))) s

/-- PRIM_SBOX (40_engines.md R146). -/
def execPrimSbox (c : Cipher) (s : State) : Host.Outcome State Fault Refusal :=
  primCommand (.primSbox c) primSboxBlock c s

/-- PRIM_INV_SBOX (40_engines.md R147). -/
def execPrimInvSbox (c : Cipher) (s : State) : Host.Outcome State Fault Refusal :=
  primCommand (.primInvSbox c) primInvSboxBlock c s

/-- PRIM_SHIFT_ROWS (40_engines.md R148). -/
def execPrimShiftRows (c : Cipher) (s : State) : Host.Outcome State Fault Refusal :=
  primCommand (.primShiftRows c) primShiftRowsBlock c s

/-- PRIM_INV_SHIFT_ROWS (40_engines.md R149). -/
def execPrimInvShiftRows (c : Cipher) (s : State) : Host.Outcome State Fault Refusal :=
  primCommand (.primInvShiftRows c) primInvShiftRowsBlock c s

/-- PRIM_MIX_COLUMNS (40_engines.md R150). -/
def execPrimMixColumns (c : Cipher) (s : State) : Host.Outcome State Fault Refusal :=
  primCommand (.primMixColumns c) primMixColumnsBlock c s

/-- PRIM_INV_MIX_COLUMNS (40_engines.md R151). -/
def execPrimInvMixColumns (c : Cipher) (s : State) : Host.Outcome State Fault Refusal :=
  primCommand (.primInvMixColumns c) primInvMixColumnsBlock c s

/-- PRIM_TWEAK_PERM (40_engines.md R152). -/
def execPrimTweakPerm (c : Cipher) (s : State) : Host.Outcome State Fault Refusal :=
  primCommand (.primTweakPerm c) primTweakPermBlock c s

/-- PRIM_INV_TWEAK_PERM (40_engines.md R153). -/
def execPrimInvTweakPerm (c : Cipher) (s : State) : Host.Outcome State Fault Refusal :=
  primCommand (.primInvTweakPerm c) primInvTweakPermBlock c s

/-- PRIM_LFSR2 (40_engines.md R154). -/
def execPrimLfsr2 (c : Cipher) (s : State) : Host.Outcome State Fault Refusal :=
  primCommand (.primLfsr2 c) primLfsr2Block c s

/-- PRIM_LFSR3 (40_engines.md R155). -/
def execPrimLfsr3 (c : Cipher) (s : State) : Host.Outcome State Fault Refusal :=
  primCommand (.primLfsr3 c) primLfsr3Block c s

end Sys2Proof.Machine
end

