-- ==== Sys2Proof/Machine/Dispatch.lean ====
section
/-! DEFINITION. One arm per command (30_encoding.md R99). -/

namespace Sys2Proof.Machine

def exec (i : Instr) (s : State) : Host.Outcome State Fault Refusal :=
  match i with
  | .setKey c nullp len rounds mode => Sys2Proof.Machine.execSetKey c nullp len rounds mode s
  | .setTweakedKey c nullp len => Sys2Proof.Machine.execSetTweakedKey c nullp len s
  | .setTweak c nullp len => Sys2Proof.Machine.execSetTweak c nullp len s
  | .swapModes c => Sys2Proof.Machine.execSwapModes c s
  | .clearKey c => Sys2Proof.Machine.execClearKey c s
  | .encryptBlock c => Sys2Proof.Machine.execEncryptBlock c s
  | .decryptBlock c => Sys2Proof.Machine.execDecryptBlock c s
  | .cryptTweaked c => Sys2Proof.Machine.execCryptTweaked c s
  | .ctrInit c => Sys2Proof.Machine.execCtrInit c s
  | .ctrSetKey c nullp len rounds => Sys2Proof.Machine.execCtrSetKey c nullp len rounds s
  | .ctrSetTweakedKey c nullp len => Sys2Proof.Machine.execCtrSetTweakedKey c nullp len s
  | .ctrSetTweak c nullp len => Sys2Proof.Machine.execCtrSetTweak c nullp len s
  | .ctrSetCounter c nullp len => Sys2Proof.Machine.execCtrSetCounter c nullp len s
  | .ctrEncrypt c nullp len => Sys2Proof.Machine.execCtrEncrypt c nullp len s
  | .ctrCleanup c => Sys2Proof.Machine.execCtrCleanup c s
  | .primSbox c => Sys2Proof.Machine.execPrimSbox c s
  | .primInvSbox c => Sys2Proof.Machine.execPrimInvSbox c s
  | .primShiftRows c => Sys2Proof.Machine.execPrimShiftRows c s
  | .primInvShiftRows c => Sys2Proof.Machine.execPrimInvShiftRows c s
  | .primMixColumns c => Sys2Proof.Machine.execPrimMixColumns c s
  | .primInvMixColumns c => Sys2Proof.Machine.execPrimInvMixColumns c s
  | .primTweakPerm c => Sys2Proof.Machine.execPrimTweakPerm c s
  | .primInvTweakPerm c => Sys2Proof.Machine.execPrimInvTweakPerm c s
  | .primLfsr2 c => Sys2Proof.Machine.execPrimLfsr2 c s
  | .primLfsr3 c => Sys2Proof.Machine.execPrimLfsr3 c s

end Sys2Proof.Machine
end

