-- ==== Sys2Proof/Machine/Step.lean ====
section
/-! DEFINITION. One step of the machine: one turn of the host, of the core sequencer or of the platform
(00_scope.md R7, 20_memory.md R73). -/

namespace Sys2Proof.Machine

/-- The core's turn: nothing when idle, else the completion of the pending command; a word that does not decode
completes with ILLEGAL (10_state.md R36, 30_encoding.md R101, R102). -/
def State.coreTurn (s : State) : Host.Outcome State Fault Refusal :=
  match s.fetch with
  | none => .next s
  | some (.ok i) => exec i s
  | some (.error _) => .next (s.raise .illegal)

/-- One step: the turn at the head of the schedule, the core's when nothing is scheduled (log 2). -/
def step (s : State) : Host.Outcome State Fault Refusal :=
  match s.turn with
  | .access a => s.popTurn.busAccess a
  | .core => s.popTurn.coreTurn
  | .reset => .next s.popTurn.platformReset

/-- `s` with the command word of a table row accepted, as a host write to CMD accepts it (10_state.md R22), and the
core's turn next: the step after it runs that command (log 1). -/
def State.withFetchWord (s : State) (nbits w : Nat) : State :=
  let t := s.accept (tableWord nbits w)
  match s.turn with
  | .core => t
  | .access _ => { t with schedule := .core :: s.schedule }
  | .reset => { t with schedule := .core :: s.schedule }

end Sys2Proof.Machine
end

