-- ==== Sys2Proof/Safety.lean ====
section
/-! DEFINITION. The invariant of the machine (10_state.md R36-R49, 60_exceptions.md R302) and the words in which the
statements say what a command did. -/

namespace Sys2Proof.Machine

/-! ### The invariant -/

/-- The cells of a tweakey word of a Skinny-64 slot are 4-bit values (00_scope.md R11; log 7). -/
def FitsNibbles (t : Cells 8) : Prop := resizeCells 8 (resizeCells 4 t) = t

/-- A key slot with a Skinny key (10_state.md R41). -/
structure SkinnySlot (slot : KeySlot) : Prop where
  z_low : 1 ≤ slot.z
  z_high : slot.z ≤ 3
  tweaked_z : slot.tweaked = true → 2 ≤ slot.z
  rounds : slot.rounds = roundCount slot.cipher slot.z
  unused1 : slot.z ≤ 1 → slot.tk.t1 = zeroCells 8
  unused2 : slot.z ≤ 2 → slot.tk.t2 = zeroCells 8
  nibbles : slot.cipher = .s64 → FitsNibbles slot.tk.t0 ∧ FitsNibbles slot.tk.t1 ∧ FitsNibbles slot.tk.t2
  no_mantis : slot.k0 = 0 ∧ slot.k0p = 0 ∧ slot.k1 = 0 ∧ slot.mode = false ∧ slot.tweak = 0

/-- A key slot with a Mantis key (10_state.md R42): one of the two whitening keys is the k0' of the other, which one is
by the orientation (41_key_setup.md R179, R180). -/
structure MantisSlot (slot : KeySlot) : Prop where
  tweaked : slot.tweaked = true
  z : slot.z = 0
  rounds_low : 5 ≤ slot.rounds
  rounds_high : slot.rounds ≤ 8
  tk : slot.tk = zeroSlot.tk
  encrypting : slot.mode = false → slot.k0p = k0Prime slot.k0
  decrypting : slot.mode = true → slot.k0 = k0Prime slot.k0p

/-- A legal key slot: no key and every field 0, or a Skinny key, or a Mantis key (10_state.md R40-R42). -/
structure LegalSlot (slot : KeySlot) : Prop where
  empty : slot.valid = false → slot = zeroSlot
  skinny : slot.valid = true → slot.cipher ≠ .mantis → SkinnySlot slot
  mantis : slot.valid = true → slot.cipher = .mantis → MantisSlot slot

/-- A legal CTR context on `k` lanes (10_state.md R47, R49). -/
structure LegalContext (k : Nat) (cx : CtrContext) : Prop where
  empty : cx.init = false → cx = zeroContext k
  offset : cx.offset ≤ bufferSize k cx.cipher
  buffer : cx.buf.length = bufferSize k cx.cipher
  counter : cx.c < counterModulus cx.cipher
  slot : LegalSlot cx.ks
  cipher : cx.ks.valid = true → cx.ks.cipher = cx.cipher
  orientation : cx.ks.mode = false

/-- A legal STATUS (10_state.md R23, 60_exceptions.md R302, R307). -/
structure LegalStatus (t : Status) : Prop where
  running : t.busy = true → t.done = false
  fresh : t.done = false → t.ok = false ∧ t.err = 0
  verdict : t.done = true → t.ok = (t.err == 0)
  codes : t.err.toNat ≤ 6
  overrun : t.overrun = true → t.busy = true ∨ t.done = true

/-- The invariant of the machine. -/
structure State.Inv (s : State) : Prop where
  /-- The buffers' bytes are in canonical form. -/
  memory : s.mem.wf = true
  /-- SEQ.busy is 1 just when a Latch is pending (10_state.md R36). -/
  sequencer : s.seq.busy = s.seq.pending.isSome
  /-- STATUS.BUSY is SEQ.busy (10_state.md R23). -/
  busyBit : s.status.busy = s.seq.busy
  status : LegalStatus s.status
  /-- The Latch is the word of CMD and the live buffers (10_state.md R37). -/
  latch : ∀ l, s.seq.pending = some l → l = takeLatch s.mem s.cmd
  blockKey : LegalSlot s.bk
  context : LegalContext s.cfg.lanes.count s.cx

/-! ### What a command did -/

/-- `s` after a command completed with OK (60_exceptions.md R307): STATUS and SEQ, and nothing else. -/
def succeeded (s : State) : State :=
  { s with
    status := { busy := false, done := true, ok := true, overrun := s.status.overrun, err := 0 }
    seq := { busy := false, pending := none } }

/-- `s` after a command completed with an error code (60_exceptions.md R307): STATUS and SEQ, and nothing else. -/
def failed (s : State) (code : BitVec 4) : State :=
  { s with
    status := { busy := false, done := true, ok := false, overrun := s.status.overrun, err := code }
    seq := { busy := false, pending := none } }

/-- The buffers of a Latch have their sizes (10_state.md R27-R32, R37). -/
structure Latch.Sized (l : Latch) : Prop where
  key : l.key.length = 48
  tweak : l.tweak.length = 16
  counter : l.counter.length = 16
  blockIn : l.blockIn.length = 16
  dataIn : l.dataIn.length = 256

/-- `t` is `s` after a command that succeeded and put `y` and then zeros into the 16 bytes of BLOCK_OUT
(42_block_crypt.md R231), and changed nothing else: every other byte and every other field is as it was. -/
structure BlockPublished (s t : State) (y : List Byte) : Prop where
  output : ∀ i < 16, t.mem.read (0x0B0 + i) = y.getD i 0
  otherBytes : ∀ a, a < 0x0B0 ∨ 0x0C0 ≤ a → t.mem.read a = s.mem.read a
  otherFields : t = { succeeded s with mem := t.mem }

/-- Cell `i` of a serialized block, as a number (20_memory.md R68): byte `i` for Skinny-128, else the high nibble of
byte `i / 2` for even `i` and the low one for odd `i`. -/
def serialCell (c : Cipher) (b : List Byte) (i : Nat) : Nat :=
  match c with
  | .s128 => (b.getD i 0).toNat
  | .s64 => if i % 2 = 0 then (b.getD (i / 2) 0).toNat / 16 else (b.getD (i / 2) 0).toNat % 16
  | .mantis => if i % 2 = 0 then (b.getD (i / 2) 0).toNat / 16 else (b.getD (i / 2) 0).toNat % 16

/-- The `j`-th tweakey word of a slot, j = 0, 1, 2. -/
def slotWord (slot : KeySlot) (j : Nat) : Cells 8 :=
  match j with
  | 0 => slot.tk.t0
  | 1 => slot.tk.t1
  | _ => slot.tk.t2

/-- The words of an OP whose row of 30_encoding.md R100 has a pointer operand and a LEN. -/
def OperandOpcode (op : Nat) : Prop :=
  op = 0x01 ∨ op = 0x02 ∨ op = 0x03 ∨ op = 0x0A ∨ op = 0x0B ∨ op = 0x0C ∨ op = 0x0D ∨ op = 0x0E

/-- The eight conditions of 30_encoding.md R101 on the bits of a word, the legal CIPHER sets as in R100. -/
def IllegalWord (w : Word) : Prop :=
  let op := w.toNat % 32
  let cipher := w.toNat / 32 % 4
  let nullp := w.toNat / 128 % 2
  let len := w.toNat / 256 % 512
  let rounds := w.toNat / 131072 % 16
  let mode := w.toNat / 2097152 % 2
  let rsv := w.toNat / 4194304
  rsv ≠ 0 ∨ op = 0 ∨ 0x1A ≤ op ∨ cipher = 3 ∨
    ((op = 0x02 ∨ op = 0x07 ∨ op = 0x0B ∨ op = 0x18 ∨ op = 0x19) ∧ cipher = 2) ∨
    ((op = 0x04 ∨ op = 0x08) ∧ cipher ≠ 2) ∨
    (nullp = 1 ∧ ¬ OperandOpcode op) ∨ (len ≠ 0 ∧ ¬ OperandOpcode op) ∨
    (rounds ≠ 0 ∧ ¬ ((op = 0x01 ∨ op = 0x0A) ∧ cipher = 2)) ∨ (mode ≠ 0 ∧ ¬ (op = 0x01 ∧ cipher = 2))

/-- `x` is the big-endian integer of the eight bytes `b 0 .. b 7` (20_memory.md R70). -/
def BigEndian64 (x : BitVec 64) (b : Nat → Byte) : Prop := ∀ i < 8, x.extractLsb' (56 - 8 * i) 8 = b i

/-- The tweakey word `t` is the serialized block whose byte `k` is `b.getD k 0` (20_memory.md R68). -/
def WordOfBytes (c : Cipher) (t : Cells 8) (b : List Byte) : Prop :=
  ∀ i < 16, (cellAt t i).toNat = serialCell c b i

/-- N(c, z) of 00_scope.md R3: 32, 36, 40 for Skinny-64 and 40, 48, 56 for Skinny-128. -/
def skinnyRoundsOf (c : Cipher) (z : Nat) : Nat := if c = .s64 then 28 + 4 * z else 32 + 8 * z

/-- The slot of an untweaked Skinny key of `z` words (41_key_setup.md R173). -/
structure LoadedSkinny (c : Cipher) (z : Nat) (key : List Byte) (slot : KeySlot) : Prop where
  header : slot.valid = true ∧ slot.cipher = c ∧ slot.tweaked = false ∧ slot.z = z
  rounds : slot.rounds = skinnyRoundsOf c z
  words : ∀ j < z, WordOfBytes c (slotWord slot j) (key.drop (j * blockSize c))
  noWords : ∀ j < 3, z ≤ j → slotWord slot j = zeroCells 8
  noMantis : slot.k0 = 0 ∧ slot.k0p = 0 ∧ slot.k1 = 0 ∧ slot.mode = false ∧ slot.tweak = 0

/-- The slot of a tweaked Skinny key of `m` words: TK1 is the zero tweak (41_key_setup.md R174). -/
structure LoadedTweaked (c : Cipher) (m : Nat) (key : List Byte) (slot : KeySlot) : Prop where
  header : slot.valid = true ∧ slot.cipher = c ∧ slot.tweaked = true ∧ slot.z = m + 1
  rounds : slot.rounds = skinnyRoundsOf c (m + 1)
  tweakWord : slotWord slot 0 = zeroCells 8
  words : ∀ j < m, WordOfBytes c (slotWord slot (j + 1)) (key.drop (j * blockSize c))
  noWords : ∀ j < 3, m + 1 ≤ j → slotWord slot j = zeroCells 8
  noMantis : slot.k0 = 0 ∧ slot.k0p = 0 ∧ slot.k1 = 0 ∧ slot.mode = false ∧ slot.tweak = 0

/-- The slot of a Mantis key with half-count `r` in orientation `m` (41_key_setup.md R179, R180): `a` and `b` are the key
halves, and orientation 1 is the swapped slot. -/
structure LoadedMantis (r : Nat) (m : Bool) (key : List Byte) (slot : KeySlot) : Prop where
  header : slot.valid = true ∧ slot.cipher = .mantis ∧ slot.tweaked = true ∧ slot.z = 0
  rounds : slot.rounds = r
  noWords : ∀ j < 3, slotWord slot j = zeroCells 8
  tweak : slot.tweak = 0
  mode : slot.mode = m
  keys : ∃ a b : BitVec 64, BigEndian64 a (fun i => key.getD i 0) ∧ BigEndian64 b (fun i => key.getD (8 + i) 0) ∧
    (m = false → slot.k0 = a ∧ slot.k0p = a.rotateRight 1 ^^^ (a >>> 63) ∧ slot.k1 = b) ∧
    (m = true → slot.k0 = a.rotateRight 1 ^^^ (a >>> 63) ∧ slot.k0p = a ∧ slot.k1 = b ^^^ 0x243f6a8885a308d3)

/-- The bytes of a tweak operand (41_key_setup.md R188): a null one is zero, a short one has zeros on the right. -/
def TweakBytes (c : Cipher) (nullp : Bool) (len : BitVec 9) (buffer tb : List Byte) : Prop :=
  tb.length = blockSize c ∧
    ∀ k < blockSize c, tb.getD k 0 = if nullp = false ∧ k < len.toNat then buffer.getD k 0 else 0

/-- Keystream byte `n` counted from the context's next counter value (43_ctr.md R260): byte `n mod bs` of
`E(ks, BE((c + n div bs) mod 2^(8·bs)))`. -/
def keystreamByte (cx : CtrContext) (n : Nat) : Byte :=
  (blockEncrypt cx.ks
    (beBytes (blockSize cx.cipher)
      ((cx.c + n / blockSize cx.cipher) % 2 ^ (8 * blockSize cx.cipher)))).getD (n % blockSize cx.cipher) 0

/-- The same slot but for its secret bits: tweakey cells, Mantis keys and tweak (10_state.md R44). -/
structure SamePublicSlot (a b : KeySlot) : Prop where
  valid : a.valid = b.valid
  cipher : a.cipher = b.cipher
  tweaked : a.tweaked = b.tweaked
  z : a.z = b.z
  rounds : a.rounds = b.rounds
  mode : a.mode = b.mode

/-- The same state but for secret bits: key, tweak and round-key bits of both slots, the counter and the keystream
buffer (10_state.md R44). -/
structure SamePublic (s t : State) : Prop where
  bk : SamePublicSlot s.bk t.bk
  ks : SamePublicSlot s.cx.ks t.cx.ks
  init : s.cx.init = t.cx.init
  cipher : s.cx.cipher = t.cx.cipher
  offset : s.cx.offset = t.cx.offset
  others : t = { s with bk := t.bk, cx := t.cx }

end Sys2Proof.Machine
end

