-- ==== Sys2Proof/Certificates/Slice0/Obligations.lean ====
section
/-! DEFINITION. The statements for the provers. The words they use are defined in Sys2Proof/Safety.lean. -/

open Sys2Proof Sys2Proof.Machine

/-! ### Encoding -/

/-- Every well-formed command is what the decoder reads from its encoding (30_encoding.md R91, R99, R100). -/
def Obligations.DecodeInvertsEncode : Prop :=
  ∀ i : Instr, i.wellFormed = true → decode (encode i) = .ok i

/-- Every word the decoder accepts is the encoding of the well-formed command it reads: no bit is dropped
(30_encoding.md R103). -/
def Obligations.EncodeInvertsDecode : Prop :=
  ∀ (w : Word) (i : Instr), decode w = .ok i → i.wellFormed = true ∧ encode i = w

/-- The decoder rejects exactly the words of 30_encoding.md R101, whatever the state, and the core completes such a
word with error code 1, changing nothing but STATUS and SEQ (R102-R103, 60_exceptions.md R304, R307); that a turn is taken
off the schedule is the model's (log 2). -/
def Obligations.IllegalWordsCompleteWithCodeOne : Prop :=
  (∀ w : Word, IllegalWord w ↔ ∀ i, decode w ≠ .ok i) ∧
    ∀ (s : State) (l : Latch), s.turn = .core → s.seq.pending = some l → IllegalWord l.word →
      step s = .next (failed s.popTurn 1)

/-- The example words of 30_encoding.md R104 decode to the commands they stand for. -/
def Obligations.ExampleWordsDecode : Prop :=
  decode 0x00000801 = .ok (.setKey .s64 false 8 0 false) ∧
    decode 0x00001021 = .ok (.setKey .s128 false 16 0 false) ∧
    decode 0x000E1041 = .ok (.setKey .mantis false 16 7 false) ∧
    decode 0x00000006 = .ok (.encryptBlock .s64) ∧
    decode 0x000000A3 = .ok (.setTweak .s128 true 0) ∧
    decode 0x0000282E = .ok (.ctrEncrypt .s128 false 40)

/-! ### Steps and the invariant -/

/-- On the core's turn the step runs the command the pending word decodes to, on the state with that turn taken off the
schedule; with nothing pending it only takes the turn. -/
def Obligations.StepRunsPendingCommand : Prop :=
  ∀ s : State, s.turn = .core →
    (∀ (l : Latch) (i : Instr), s.seq.pending = some l → decode l.word = .ok i →
      step s = exec i { s with schedule := s.schedule.tail }) ∧
    (s.seq.pending = none → step s = .next { s with schedule := s.schedule.tail })

/-- The state after reset meets the invariant. -/
def Obligations.ResetMeetsInvariant : Prop := State.reset.Inv

/-- Every step keeps the invariant. -/
def Obligations.StepKeepsInvariant : Prop :=
  ∀ s t : State, s.Inv → step s = .next t → t.Inv

/-- Every command, in every state, completes: BUSY 0, DONE 1, OVERRUN as it was, OK just when ERR is 0, and the sequencer
idle (60_exceptions.md R307). -/
def Obligations.EveryCommandCompletes : Prop :=
  ∀ (i : Instr) (s : State), ∃ t, exec i s = .next t ∧ t.seq = { busy := false, pending := none } ∧
    t.status.busy = false ∧ t.status.done = true ∧ t.status.overrun = s.status.overrun ∧
    t.status.ok = (t.status.err == 0) ∧ t.status.err.toNat ≤ 6

/-- A failed command publishes only STATUS: every other field and every byte is as it was (60_exceptions.md R301). -/
def Obligations.FailedCommandChangesOnlyStatus : Prop :=
  ∀ (i : Instr) (s t : State), exec i s = .next t → t.status.ok = false → t = failed s t.status.err

/-- No step is refused, and a step stops with a fault only for a refused host access on a platform that stops there. -/
def Obligations.OnlyRefusedAccessesStop : Prop :=
  ∀ s : State, (∀ r, step s ≠ .refused r) ∧
    ∀ why, step s = .fault why → ∃ a, s.turn = .access a ∧ accessFault a = some why ∧ s.cfg.busErrorStops = true

/-- Once the scheduled turns and one more have been taken the sequencer is idle, unless a refused access has stopped the run
on a platform that stops there; and unless a reset was among the turns, which aborts a command (R331), a command that was
pending has completed: DONE is 1 (70_reset_and_hazards.md R340; the schedule is the model's, log 2, and the stop log 4). -/
def Obligations.CompletionAlwaysComes : Prop :=
  ∀ s : State, s.Inv →
    (∃ a why, Turn.access a ∈ s.schedule ∧ accessFault a = some why ∧ s.cfg.busErrorStops = true ∧
      core.run (s.schedule.length + 1) s = .fault why) ∨
    ∃ t, core.run (s.schedule.length + 1) s = .next t ∧ t.schedule = [] ∧ t.seq.busy = false ∧
      (s.seq.busy = true → Turn.reset ∉ s.schedule → t.status.done = true)

/-! ### The host's accesses -/

/-- A write to CMD while idle accepts a command: CMD holds the word, STATUS is BUSY alone, and the Latch holds the word
and the bytes of the five host-written buffers (10_state.md R22, R36, R37; 60_exceptions.md R307). -/
def Obligations.IdleCommandWriteAccepts : Prop :=
  ∀ (s : State) (v : Word) (rest : List Turn), s.schedule = .access (.write .bits32 0x004 v) :: rest →
    s.seq.busy = false →
    ∃ l : Latch,
      step s = .next
        { s with
          schedule := rest, response := some .written, cmd := v
          status := { busy := true, done := false, ok := false, overrun := false, err := 0 }
          seq := { busy := true, pending := some l } } ∧
      l.word = v ∧ l.Sized ∧
      (∀ i < 48, l.key.getD i 0 = s.mem.read (0x040 + i)) ∧
      (∀ i < 16, l.tweak.getD i 0 = s.mem.read (0x080 + i)) ∧
      (∀ i < 16, l.counter.getD i 0 = s.mem.read (0x090 + i)) ∧
      (∀ i < 16, l.blockIn.getD i 0 = s.mem.read (0x0A0 + i)) ∧
      (∀ i < 256, l.dataIn.getD i 0 = s.mem.read (0x100 + i))

/-- The offsets of CMD and the host-written buffers. -/
def HostWritten (a : Nat) : Prop :=
  (0x004 ≤ a ∧ a < 0x008) ∨ (0x040 ≤ a ∧ a < 0x070) ∨ (0x080 ≤ a ∧ a < 0x0B0) ∨ (0x100 ≤ a ∧ a < 0x200)

/-- The offsets of BLOCK_OUT and DATA_OUT. -/
def CoreWritten (a : Nat) : Prop := (0x0B0 ≤ a ∧ a < 0x0C0) ∨ (0x200 ≤ a ∧ a < 0x300)

/-- A write to CMD or a host-written buffer while busy is dropped and sets OVERRUN, and changes nothing else; the next
accepted CMD write clears OVERRUN (60_exceptions.md R309). -/
def Obligations.BusyWriteSetsOverrun : Prop :=
  (∀ (s : State) (a : BitVec 12) (v : Word) (rest : List Turn),
    s.schedule = .access (.write .bits32 a v) :: rest → a.toNat % 4 = 0 → HostWritten a.toNat →
    s.seq.busy = true →
    step s = .next
      { s with schedule := rest, response := some .written, status := { s.status with overrun := true } }) ∧
  ∀ (s : State) (v : Word) (rest : List Turn), s.schedule = .access (.write .bits32 0x004 v) :: rest →
    s.seq.busy = false → ∃ t, step s = .next t ∧ t.status.overrun = false ∧ t.cmd = v

/-- A write to a host-written buffer while idle stores its four bytes, the low one at the lowest offset, and changes
nothing else (20_memory.md R65, R66). -/
def Obligations.IdleBufferWriteStoresWord : Prop :=
  ∀ (s : State) (a : BitVec 12) (v : Word) (rest : List Turn),
    s.schedule = .access (.write .bits32 a v) :: rest → a.toNat % 4 = 0 → HostWritten a.toNat → a ≠ 0x004 →
    s.seq.busy = false →
    ∃ t, step s = .next t ∧ (∀ k < 4, t.mem.read (a.toNat + k) = v.extractLsb' (8 * k) 8) ∧
      (∀ b, b < a.toNat ∨ a.toNat + 4 ≤ b → t.mem.read b = s.mem.read b) ∧
      t = { s with schedule := rest, response := some .written, mem := t.mem }

/-- Reads of ID, CMD, STATUS and CAPS give their words, and of a host-written buffer its four bytes little-endian, busy or
not, and change nothing (20_memory.md R65, R66, R80; 10_state.md R21, R22, R26). -/
def Obligations.StableReadsReturnRegisters : Prop :=
  ∀ (s : State) (a : BitVec 12) (rest : List Turn), s.schedule = .access (.read .bits32 a) :: rest →
    a.toNat % 4 = 0 →
    (∀ v : Word,
      ((a = 0x000 ∧ v = 0x594E4B53) ∨ (a = 0x004 ∧ v = s.cmd) ∨ (a = 0x008 ∧ v = s.status.word) ∨
        (a = 0x014 ∧ v.toNat = s.cfg.lanes.count + 256 * 256)) →
      step s = .next { s with schedule := rest, response := some (.data v) }) ∧
    (HostWritten a.toNat → a ≠ 0x004 → ∃ v : Word,
      step s = .next { s with schedule := rest, response := some (.data v) } ∧
        ∀ k < 4, v.extractLsb' (8 * k) 8 = s.mem.read (a.toNat + k))

/-- While idle, KEYINFO and CTRINFO read their derived words and BLOCK_OUT and DATA_OUT their bytes, with no side effect
(20_memory.md R65, R66; 10_state.md R24, R25, R31, R33). -/
def Obligations.IdleReadsReturnOutputs : Prop :=
  ∀ (s : State) (a : BitVec 12) (rest : List Turn), s.schedule = .access (.read .bits32 a) :: rest →
    a.toNat % 4 = 0 → s.seq.busy = false →
    (a = 0x00C → step s = .next { s with schedule := rest, response := some (.data (keyInfoWord s.bk)) }) ∧
    (a = 0x010 → step s = .next { s with schedule := rest, response := some (.data (ctrInfoWord s.cx)) }) ∧
    (CoreWritten a.toNat → ∃ v : Word,
      step s = .next { s with schedule := rest, response := some (.data v) } ∧
        ∀ k < 4, v.extractLsb' (8 * k) 8 = s.mem.read (a.toNat + k))

/-- While busy, a read of KEYINFO, CTRINFO, BLOCK_OUT or DATA_OUT gives the next free draw and changes no core state. The
draw is the model's free value (log 3), for whatever value it has (20_memory.md R80, 70_reset_and_hazards.md R336). -/
def Obligations.BusyReadsOfOutputsAreFree : Prop :=
  ∀ (s : State) (a : BitVec 12) (rest : List Turn), s.schedule = .access (.read .bits32 a) :: rest →
    a.toNat % 4 = 0 → s.seq.busy = true → (a = 0x00C ∨ a = 0x010 ∨ CoreWritten a.toNat) →
    step s = .next
      { s with schedule := rest, response := some (.data (Config.freeWord s.draws)), draws := s.draws + 1 }

/-- The reserved offsets (20_memory.md R62). -/
def ReservedOffset (a : Nat) : Prop :=
  (0x018 ≤ a ∧ a < 0x040) ∨ (0x070 ≤ a ∧ a < 0x080) ∨ (0x0C0 ≤ a ∧ a < 0x100) ∨ 0x300 ≤ a

/-- The offsets of the read-only registers (20_memory.md R66). -/
def ReadOnlyOffset (a : Nat) : Prop := a < 0x004 ∨ (0x008 ≤ a ∧ a < 0x018) ∨ CoreWritten a

/-- The outcome `o` of a refused access: the platform stops, or the access is answered by the error and nothing else
changes (60_exceptions.md R310; log 4). -/
def RefusedWith (s : State) (why : Fault) (rest : List Turn) (o : Host.Outcome State Fault Refusal) : Prop :=
  (s.cfg.busErrorStops = true → o = .fault why) ∧
    (s.cfg.busErrorStops = false → o = .next { s with schedule := rest, response := some (.busError why) })

/-- The bus errors, in their order, and every other access succeeds (60_exceptions.md R311). -/
def Obligations.BusErrorsAreExactlyThree : Prop :=
  ∀ (s : State) (a : Access) (rest : List Turn), s.schedule = .access a :: rest →
    ((a.width ≠ .bits32 ∨ a.offset % 4 ≠ 0) → RefusedWith s .notAlignedWord rest (step s)) ∧
    (a.width = .bits32 → a.offset % 4 = 0 → ReservedOffset a.offset →
      RefusedWith s .reservedOffset rest (step s)) ∧
    (a.width = .bits32 → a.offset % 4 = 0 → a.isWrite = true → ReadOnlyOffset a.offset →
      RefusedWith s .readOnlyWrite rest (step s)) ∧
    (a.width = .bits32 → a.offset % 4 = 0 → ¬ ReservedOffset a.offset →
      ¬ (a.isWrite = true ∧ ReadOnlyOffset a.offset) →
      ∃ t, step s = .next t ∧ ∀ why, t.response ≠ some (.busError why))

/-- STATUS as a word (10_state.md R23). -/
def Obligations.StatusWordLayout : Prop :=
  ∀ t : Status, t.word.getLsbD 0 = t.busy ∧ t.word.getLsbD 1 = t.done ∧ t.word.getLsbD 2 = t.ok ∧
    t.word.getLsbD 3 = t.overrun ∧ t.word.extractLsb' 4 4 = t.err ∧ t.word.extractLsb' 8 24 = 0

/-- KEYINFO of a legal slot (10_state.md R24). -/
def KeyInfoLayout : Prop :=
  ∀ bk : KeySlot, LegalSlot bk →
    (bk.valid = false → keyInfoWord bk = 0) ∧
    (bk.valid = true →
      (keyInfoWord bk).getLsbD 0 = true ∧
      ((keyInfoWord bk).extractLsb' 1 2).toNat = (match bk.cipher with | .s64 => 0 | .s128 => 1 | .mantis => 2) ∧
      (keyInfoWord bk).getLsbD 3 = bk.tweaked ∧
      ((keyInfoWord bk).extractLsb' 4 6).toNat = bk.rounds ∧
      ((keyInfoWord bk).extractLsb' 10 2).toNat = bk.z ∧
      (keyInfoWord bk).getLsbD 12 = bk.mode ∧
      (keyInfoWord bk).extractLsb' 13 19 = 0)

/-- CTRINFO of a legal context (10_state.md R25). -/
def CtrInfoLayout : Prop :=
  ∀ (lanes : Lanes) (cx : CtrContext), LegalContext lanes.count cx →
    (cx.init = false → ctrInfoWord cx = 0) ∧
    (cx.init = true →
      (ctrInfoWord cx).getLsbD 0 = true ∧
      ((ctrInfoWord cx).extractLsb' 1 2).toNat = (match cx.cipher with | .s64 => 0 | .s128 => 1 | .mantis => 2) ∧
      (ctrInfoWord cx).getLsbD 3 = cx.ks.valid ∧
      (ctrInfoWord cx).getLsbD 4 = cx.ks.tweaked ∧
      (ctrInfoWord cx).extractLsb' 5 3 = 0 ∧
      ((ctrInfoWord cx).extractLsb' 8 6).toNat = cx.ks.rounds ∧
      (ctrInfoWord cx).extractLsb' 14 2 = 0 ∧
      ((ctrInfoWord cx).extractLsb' 16 8).toNat = cx.offset ∧
      (ctrInfoWord cx).extractLsb' 24 8 = 0)

/-- KEYINFO and CTRINFO report the metadata of the slot and of the context, each field at its place, and read 0 without
a key or a context (10_state.md R24, R25). -/
def Obligations.InfoWordsReportMetadata : Prop := KeyInfoLayout ∧ CtrInfoLayout

/-! ### Reset -/

/-- `t` holds the reset values of 10_state.md R50. -/
structure HoldsResetValues (t : State) : Prop where
  id : t.readWord 0x000 = 0x594E4B53
  cmd : t.cmd = 0
  status : t.status.word = 0
  keyinfo : t.readWord 0x00C = 0
  ctrinfo : t.readWord 0x010 = 0
  caps : (t.readWord 0x014).toNat = t.cfg.lanes.count + 256 * 256
  buffers : ∀ a, t.mem.read a = 0
  seq : t.seq = { busy := false, pending := none }
  bk : t.bk = zeroSlot
  cxFlags : t.cx.init = false ∧ t.cx.cipher = .s64 ∧ t.cx.ks = zeroSlot ∧ t.cx.c = 0 ∧ t.cx.offset = 0
  cxBuf : ∀ b ∈ t.cx.buf, b = 0
  slotFields : zeroSlot.valid = false ∧ zeroSlot.cipher = .s64 ∧ zeroSlot.tweaked = false ∧ zeroSlot.z = 0 ∧
    zeroSlot.rounds = 0 ∧ (∀ j < 3, ∀ i < 16, cellAt (slotWord zeroSlot j) i = 0) ∧ zeroSlot.k0 = 0 ∧
    zeroSlot.k0p = 0 ∧ zeroSlot.k1 = 0 ∧ zeroSlot.mode = false ∧ zeroSlot.tweak = 0

/-- The state after reset holds the reset values, and a reset, also in mid-command, leaves exactly them; only the turns
still to come and the configuration, which are outside the core, stay (10_state.md R50, 70_reset_and_hazards.md R331). -/
def Obligations.ResetLeavesResetValues : Prop :=
  HoldsResetValues State.reset ∧
    ∀ (s : State) (rest : List Turn), s.schedule = .reset :: rest →
      ∃ t, step s = .next t ∧ HoldsResetValues t ∧ t.schedule = rest ∧ t.cfg = s.cfg

/-! ### Key setup -/

/-- SET_KEY with a Skinny cipher and a legal length loads the untweaked slot and changes nothing else
(41_key_setup.md R185, R173). -/
def Obligations.SetKeySkinnyLoadsSlot : Prop :=
  ∀ (s : State) (c : Cipher) (z : Nat), c ≠ .mantis → 1 ≤ z → z ≤ 3 →
    ∃ slot, exec (.setKey c false (BitVec.ofNat 9 (z * blockSize c)) 0 false) s
        = .next (succeeded { s with bk := slot }) ∧
      LoadedSkinny c z s.latch.key slot

/-- SET_KEY with CIPHER Mantis loads the Mantis slot in either orientation and changes nothing else
(41_key_setup.md R186, R179). -/
def Obligations.SetKeyMantisLoadsSlot : Prop :=
  ∀ (s : State) (r : BitVec 4) (m : Bool), s.latch.Sized → 5 ≤ r.toNat → r.toNat ≤ 8 →
    ∃ slot, exec (.setKey .mantis false 16 r m) s = .next (succeeded { s with bk := slot }) ∧
      LoadedMantis r.toNat m s.latch.key slot

/-- SET_TWEAKED_KEY with a legal length loads the tweaked slot with a zero tweak and changes nothing else
(41_key_setup.md R187, R174). -/
def Obligations.SetTweakedKeyLoadsSlot : Prop :=
  ∀ (s : State) (c : Cipher) (m : Nat), c ≠ .mantis → 1 ≤ m → m ≤ 2 →
    ∃ slot, exec (.setTweakedKey c false (BitVec.ofNat 9 (m * blockSize c))) s
        = .next (succeeded { s with bk := slot }) ∧
      LoadedTweaked c m s.latch.key slot

/-- SET_TWEAK on a tweaked slot of its cipher puts the tweak bytes into TK1, or into T for Mantis, and changes nothing else
(41_key_setup.md R188). -/
def Obligations.SetTweakReplacesTweakAlone : Prop :=
  ∀ (s : State) (c : Cipher) (nullp : Bool) (len : BitVec 9), s.latch.Sized → s.bk.valid = true →
    s.bk.cipher = c → s.bk.tweaked = true → (nullp = true → len = 0) → len.toNat ≤ blockSize c →
    ∃ tb, TweakBytes c nullp len s.latch.tweak tb ∧
      (c = .mantis → ∃ x, BigEndian64 x (fun k => tb.getD k 0) ∧
        exec (.setTweak c nullp len) s = .next (succeeded { s with bk := { s.bk with tweak := x } })) ∧
      (c ≠ .mantis → ∃ t, WordOfBytes c t tb ∧
        exec (.setTweak c nullp len) s
          = .next (succeeded { s with bk := { s.bk with tk := { s.bk.tk with t0 := t } } }))

/-- SWAP_MODES swaps k0 and k0p, XORs k1 with α, flips the orientation and changes nothing else; a second SWAP_MODES
restores the slot (41_key_setup.md R180, R189). -/
def Obligations.SwapModesSwapsOrientation : Prop :=
  ∀ s : State, s.bk.valid = true → s.bk.cipher = .mantis →
    exec (.swapModes .mantis) s = .next (succeeded
      { s with
        bk := { s.bk with
          k0 := s.bk.k0p, k0p := s.bk.k0, k1 := s.bk.k1 ^^^ 0x243f6a8885a308d3, mode := !s.bk.mode } }) ∧
    ∀ t, exec (.swapModes .mantis) s = .next t →
      ∃ u, exec (.swapModes .mantis) t = .next u ∧ u.bk = s.bk

/-- CLEAR_KEY zeroes every field of the block key slot, whatever its CIPHER and whether or not a key is loaded, and changes
nothing else (41_key_setup.md R190). -/
def Obligations.ClearKeyZeroesSlot : Prop :=
  ∀ (s : State) (c : Cipher),
    exec (.clearKey c) s = .next (succeeded
      { s with
        bk :=
          { valid := false, cipher := .s64, tweaked := false, z := 0, rounds := 0
            tk := ⟨zeroCells 8, zeroCells 8, zeroCells 8⟩
            k0 := 0, k0p := 0, k1 := 0, mode := false, tweak := 0 } })

/-! ### Errors -/

/-- The key commands fail with PARAM for a null key, a length that is not an exact key size, or a Mantis round count
outside 5..8 (41_key_setup.md R185-R187); a command word that is not legal fails with ILLEGAL before any other check. -/
def Obligations.KeyCommandsRejectBadOperands : Prop :=
  ∀ s : State,
    (∀ (c : Cipher) (nullp : Bool) (len : BitVec 9), c ≠ .mantis →
      (nullp = true ∨ (len.toNat ≠ blockSize c ∧ len.toNat ≠ 2 * blockSize c ∧ len.toNat ≠ 3 * blockSize c)) →
      exec (.setKey c nullp len 0 false) s = .next (failed s 6)) ∧
    (∀ (nullp : Bool) (len : BitVec 9) (r : BitVec 4) (m : Bool),
      (nullp = true ∨ len.toNat ≠ 16 ∨ r.toNat < 5 ∨ 8 < r.toNat) →
      exec (.setKey .mantis nullp len r m) s = .next (failed s 6)) ∧
    (∀ (c : Cipher) (nullp : Bool) (len : BitVec 9), c ≠ .mantis →
      (nullp = true ∨ (len.toNat ≠ blockSize c ∧ len.toNat ≠ 2 * blockSize c)) →
      exec (.setTweakedKey c nullp len) s = .next (failed s 6)) ∧
    (∀ i : Instr, i.wellFormed = false → exec i s = .next (failed s 1))

/-- The commands that act on the block key slot, with their CIPHER (60_exceptions.md R305, column CIPHER "(k)"). -/
inductive UsesBlockKey : Cipher → Instr → Prop where
  | setTweak (c : Cipher) (nullp : Bool) (len : BitVec 9) : UsesBlockKey c (.setTweak c nullp len)
  | swapModes : UsesBlockKey .mantis (.swapModes .mantis)
  | encryptBlock (c : Cipher) : UsesBlockKey c (.encryptBlock c)
  | decryptBlock (c : Cipher) : c ≠ .mantis → UsesBlockKey c (.decryptBlock c)
  | cryptTweaked : UsesBlockKey .mantis (.cryptTweaked .mantis)

/-- Every command that acts on the block key slot fails with CIPHER when a key of another cipher is loaded and with NOKEY
when none is; SET_TWEAK then fails with NOTWEAK on an untweaked slot, then with PARAM for a bad operand
(60_exceptions.md R303, R305). -/
def Obligations.BlockKeyErrorsInOrder : Prop :=
  ∀ (s : State) (c : Cipher),
    (∀ i, UsesBlockKey c i → s.bk.valid = true → s.bk.cipher ≠ c → exec i s = .next (failed s 3)) ∧
    (∀ i, UsesBlockKey c i → s.bk.valid = false → exec i s = .next (failed s 4)) ∧
    (∀ (nullp : Bool) (len : BitVec 9), s.bk.valid = true → s.bk.cipher = c → s.bk.tweaked = false →
      exec (.setTweak c nullp len) s = .next (failed s 5)) ∧
    (∀ (nullp : Bool) (len : BitVec 9), s.bk.valid = true → s.bk.cipher = c → s.bk.tweaked = true →
      ((nullp = true ∧ len ≠ 0) ∨ blockSize c < len.toNat) →
      exec (.setTweak c nullp len) s = .next (failed s 6))

/-- The well-formed CTR commands that need a context, with their CIPHER (60_exceptions.md R305, column NOCTX). -/
inductive UsesContext : Cipher → Instr → Prop where
  | ctrSetKey (c : Cipher) (nullp : Bool) (len : BitVec 9) (r : BitVec 4) :
      (c = .mantis ∨ r = 0) → UsesContext c (.ctrSetKey c nullp len r)
  | ctrSetTweakedKey (c : Cipher) (nullp : Bool) (len : BitVec 9) :
      c ≠ .mantis → UsesContext c (.ctrSetTweakedKey c nullp len)
  | ctrSetTweak (c : Cipher) (nullp : Bool) (len : BitVec 9) : UsesContext c (.ctrSetTweak c nullp len)
  | ctrSetCounter (c : Cipher) (nullp : Bool) (len : BitVec 9) : UsesContext c (.ctrSetCounter c nullp len)
  | ctrEncrypt (c : Cipher) (nullp : Bool) (len : BitVec 9) : UsesContext c (.ctrEncrypt c nullp len)

/-- Every CTR command that needs a context fails with NOCTX when there is none and with CIPHER when it is of another cipher
(60_exceptions.md R303, R305). -/
def Obligations.ContextErrorsInOrder : Prop :=
  ∀ (s : State) (c : Cipher) (i : Instr), UsesContext c i →
    (s.cx.init = false → exec i s = .next (failed s 2)) ∧
    (s.cx.init = true → s.cx.cipher ≠ c → exec i s = .next (failed s 3))

/-- In a context of their cipher the CTR commands fail with NOKEY, NOTWEAK and PARAM, in this order (43_ctr.md R266-R271,
60_exceptions.md R303). -/
def Obligations.ContextCommandErrorsInOrder : Prop :=
  ∀ (s : State) (c : Cipher), s.cx.init = true → s.cx.cipher = c →
    (∀ (nullp : Bool) (len : BitVec 9), c ≠ .mantis →
      (nullp = true ∨ (len.toNat ≠ blockSize c ∧ len.toNat ≠ 2 * blockSize c ∧ len.toNat ≠ 3 * blockSize c)) →
      exec (.ctrSetKey c nullp len 0) s = .next (failed s 6)) ∧
    (∀ (nullp : Bool) (len : BitVec 9) (r : BitVec 4), c = .mantis →
      (nullp = true ∨ len.toNat ≠ 16 ∨ r.toNat < 5 ∨ 8 < r.toNat) →
      exec (.ctrSetKey c nullp len r) s = .next (failed s 6)) ∧
    (∀ (nullp : Bool) (len : BitVec 9), c ≠ .mantis →
      (nullp = true ∨ (len.toNat ≠ blockSize c ∧ len.toNat ≠ 2 * blockSize c)) →
      exec (.ctrSetTweakedKey c nullp len) s = .next (failed s 6)) ∧
    (∀ (nullp : Bool) (len : BitVec 9), ((nullp = true ∧ len ≠ 0) ∨ blockSize c < len.toNat) →
      exec (.ctrSetCounter c nullp len) s = .next (failed s 6)) ∧
    (∀ (nullp : Bool) (len : BitVec 9), s.cx.ks.valid = false →
      exec (.ctrSetTweak c nullp len) s = .next (failed s 4) ∧
      exec (.ctrEncrypt c nullp len) s = .next (failed s 4)) ∧
    (∀ (nullp : Bool) (len : BitVec 9), s.cx.ks.valid = true → s.cx.ks.tweaked = false →
      exec (.ctrSetTweak c nullp len) s = .next (failed s 5)) ∧
    (∀ (nullp : Bool) (len : BitVec 9), s.cx.ks.valid = true → s.cx.ks.tweaked = true →
      ((nullp = true ∧ len ≠ 0) ∨ blockSize c < len.toNat) →
      exec (.ctrSetTweak c nullp len) s = .next (failed s 6)) ∧
    (∀ (nullp : Bool) (len : BitVec 9), s.cx.ks.valid = true → (nullp = true ∨ 256 < len.toNat) →
      exec (.ctrEncrypt c nullp len) s = .next (failed s 6))

/-! ### Block commands -/

/-- ENCRYPT_BLOCK with a Skinny key of its cipher publishes SkinnyEncrypt of BLOCK_IN[0..bs-1], and with a Mantis key
MantisCrypt under the stored tweak (42_block_crypt.md R235, R231). -/
def Obligations.EncryptBlockPublishesCiphertext : Prop :=
  ∀ (s : State) (c : Cipher), s.bk.valid = true → s.bk.cipher = c →
    ∃ t, exec (.encryptBlock c) s = .next t ∧
      (c ≠ .mantis → BlockPublished s t (skinnyEncrypt s.bk (s.latch.blockIn.take (blockSize c)))) ∧
      (c = .mantis → BlockPublished s t (mantisCrypt s.bk (s.latch.blockIn.take 8) s.bk.tweak))

/-- DECRYPT_BLOCK with a Skinny key of its cipher publishes SkinnyDecrypt of BLOCK_IN[0..bs-1] (42_block_crypt.md R236,
R231). -/
def Obligations.DecryptBlockPublishesPlaintext : Prop :=
  ∀ (s : State) (c : Cipher), s.bk.valid = true → s.bk.cipher = c → c ≠ .mantis →
    ∃ t, exec (.decryptBlock c) s = .next t ∧
      BlockPublished s t (skinnyDecrypt s.bk (s.latch.blockIn.take (blockSize c)))

/-- CRYPT_TWEAKED publishes MantisCrypt under BE(TWEAK[0..7]) and leaves the stored tweak as it was
(42_block_crypt.md R237, R231). -/
def Obligations.CryptTweakedUsesExplicitTweak : Prop :=
  ∀ s : State, s.latch.Sized → s.bk.valid = true → s.bk.cipher = .mantis →
    ∃ t x, exec (.cryptTweaked .mantis) s = .next t ∧ BigEndian64 x (fun k => s.latch.tweak.getD k 0) ∧
      BlockPublished s t (mantisCrypt s.bk (s.latch.blockIn.take 8) x) ∧ t.bk.tweak = s.bk.tweak

/-- SkinnyDecrypt undoes SkinnyEncrypt for every slot and block (42_block_crypt.md R224). -/
def Obligations.SkinnyDecryptInvertsEncrypt : Prop :=
  ∀ (slot : KeySlot) (b : List Byte), b.length = blockSize slot.cipher →
    skinnyDecrypt slot (skinnyEncrypt slot b) = b

/-- The swapped Mantis slot undoes the slot, for every slot, block and tweak (42_block_crypt.md R230, law 2). -/
def Obligations.MantisSwapInvertsCrypt : Prop :=
  ∀ (slot : KeySlot) (b : List Byte) (x : BitVec 64), b.length = 8 →
    mantisCrypt (swapSlot slot) (mantisCrypt slot b x) x = b

/-- On the machine: what ENCRYPT_BLOCK put into BLOCK_OUT, given back as BLOCK_IN under the same slot (for Mantis, after
SWAP_MODES), comes out as the block that went in (42_block_crypt.md R230). -/
def Obligations.DecryptBlockUndoesEncryptBlock : Prop :=
  ∀ (s t u : State) (c : Cipher), s.latch.Sized → s.bk.valid = true → s.bk.cipher = c →
    exec (.encryptBlock c) s = .next t →
    u.latch.blockIn.take (blockSize c) = t.mem.readBytes 0x0B0 (blockSize c) →
    (c ≠ .mantis → u.bk = t.bk → ∃ v, exec (.decryptBlock c) u = .next v ∧
      v.mem.readBytes 0x0B0 (blockSize c) = s.latch.blockIn.take (blockSize c)) ∧
    (c = .mantis → ∀ w, exec (.swapModes .mantis) t = .next w → u.bk = w.bk →
      ∃ v, exec (.encryptBlock .mantis) u = .next v ∧
        v.mem.readBytes 0x0B0 8 = s.latch.blockIn.take 8)

/-- One Skinny round, cell by cell: S-box, round key into cells 0..7, 0x2 into cell 8, row `r` rotated right by `r`, and the
column XORs of MixColumns (42_block_crypt.md R221). -/
def SkinnyRoundCells : Prop :=
  ∀ (w : Nat) (e : Engine w) (s : Cells w) (rk : HalfCells w), ∃ b : Nat → BitVec w,
    (∀ r < 4, ∀ c < 4, b (4 * r + c) =
      let i := 4 * r + (c + 4 - r) % 4
      e.sbox (cellAt s i) ^^^
        (if i < 8 then [rk.r0, rk.r1, rk.r2, rk.r3, rk.r4, rk.r5, rk.r6, rk.r7].getD i 0
         else if i = 8 then BitVec.ofNat w 2 else 0)) ∧
    ∀ c < 4,
      cellAt (skinnyRound e s rk) c = b c ^^^ b (8 + c) ^^^ b (12 + c) ∧
      cellAt (skinnyRound e s rk) (4 + c) = b c ∧
      cellAt (skinnyRound e s rk) (8 + c) = b (4 + c) ^^^ b (8 + c) ∧
      cellAt (skinnyRound e s rk) (12 + c) = b c ^^^ b (8 + c)

/-- One Skinny inverse round, cell by cell: the column XORs of InvMixColumns, row `r` rotated left by `r`, round key and 0x2,
and the inverse S-box (42_block_crypt.md R223). -/
def SkinnyInvRoundCells : Prop :=
  ∀ (w : Nat) (e : Engine w) (s : Cells w) (rk : HalfCells w), ∃ b : Nat → BitVec w,
    (∀ c < 4,
      b c = cellAt s (4 + c) ∧
      b (4 + c) = cellAt s (4 + c) ^^^ cellAt s (8 + c) ^^^ cellAt s (12 + c) ∧
      b (8 + c) = cellAt s (4 + c) ^^^ cellAt s (12 + c) ∧
      b (12 + c) = cellAt s c ^^^ cellAt s (12 + c)) ∧
    ∀ r < 4, ∀ c < 4,
      let i := 4 * r + c
      cellAt (skinnyInvRound e s rk) i = e.sboxInv
        (b (4 * r + (c + r) % 4) ^^^
          (if i < 8 then [rk.r0, rk.r1, rk.r2, rk.r3, rk.r4, rk.r5, rk.r6, rk.r7].getD i 0
           else if i = 8 then BitVec.ofNat w 2 else 0))

/-- The rounds run in rising order and the inverse rounds in falling order (42_block_crypt.md R222, R224). -/
def SkinnyRoundsInOrder : Prop :=
  ∀ (w : Nat) (e : Engine w) (s : Cells w) (rk : Nat → HalfCells w) (n : Nat),
    skinnyRounds e rk n s = (List.range n).foldl (fun x r => skinnyRound e x (rk r)) s ∧
    skinnyInvRounds e rk n s = (List.range n).reverse.foldl (fun x r => skinnyInvRound e x (rk r)) s

/-- On every slot of cipher `c` SkinnyEncrypt runs the slot's rounds with the engine `e` on the cells of the block, round
key RK(slot, r) in round r, rising, and SkinnyDecrypt the inverse rounds, falling (42_block_crypt.md R222, R224). -/
def SkinnyRunsRounds {w : Nat} (c : Cipher) (e : Engine w) : Prop :=
  ∀ (slot : KeySlot) (b : List Byte), slot.cipher = c →
    (skinnyEncrypt slot b).length = blockSize c ∧ (skinnyDecrypt slot b).length = blockSize c ∧
    ∃ x : Cells w, (∀ n < 16, (cellAt x n).toNat = serialCell c b n) ∧
      ∀ n < 16,
        serialCell c (skinnyEncrypt slot b) n =
          (cellAt ((List.range slot.rounds).foldl (fun y r => skinnyRound e y (slotRoundKey e slot r)) x) n).toNat ∧
        serialCell c (skinnyDecrypt slot b) n =
          (cellAt ((List.range slot.rounds).reverse.foldl
            (fun y r => skinnyInvRound e y (slotRoundKey e slot r)) x) n).toNat

/-- A Skinny round and its inverse cell by cell, and the block functions as the slot's rounds on the cells of the block:
Skinny-64 with S4 and the 4-bit LFSRs, Skinny-128 with S8 and the 8-bit ones (42_block_crypt.md R221-R224). -/
def Obligations.SkinnyRoundCellByCell : Prop :=
  SkinnyRoundCells ∧ SkinnyInvRoundCells ∧ SkinnyRoundsInOrder ∧
    SkinnyRunsRounds .s64 ⟨sbox4, sbox4Inv, lfsr2w4, lfsr3w4⟩ ∧
    SkinnyRunsRounds .s128 ⟨sbox8, sbox8Inv, lfsr2w8, lfsr3w8⟩

/-- The cells of a Mantis forward and reverse round, of the middle and of the nibble array of a word, and the rounds' order:
forward rising, reverse falling (42_block_crypt.md R225-R229). -/
def MantisRoundCells : Prop :=
  (∀ x : BitVec 64, ∀ n < 16, (cellAt (nibbles x) n).toNat = x.toNat / 2 ^ (60 - 4 * n) % 16) ∧
  (∀ (k : BitVec 64) (i : Nat) (m : MantisState),
    (∃ b : Nat → BitVec 4,
      (∀ n < 16, b n =
        let j := [0, 11, 6, 13, 10, 1, 12, 7, 5, 14, 3, 8, 15, 4, 9, 2].getD n 0
        sboxM (cellAt m.s j) ^^^ cellAt (nibbles (mantisConstant i)) j ^^^ cellAt (nibbles k) j ^^^
          cellAt (mantisRound k i m).t j) ∧
      ∀ n < 16, cellAt (mantisRound k i m).s n =
        b (n % 4) ^^^ b (n % 4 + 4) ^^^ b (n % 4 + 8) ^^^ b (n % 4 + 12) ^^^ b n) ∧
    (∀ n < 16, cellAt (mantisRound k i m).t n =
      cellAt m.t ([6, 5, 14, 15, 0, 1, 2, 3, 7, 12, 13, 4, 8, 9, 10, 11].getD n 0)) ∧
    (∀ n < 16, cellAt (mantisInvRound k i m).s n =
      let j := [0, 5, 15, 10, 13, 8, 2, 7, 11, 14, 4, 1, 6, 3, 9, 12].getD n 0
      sboxM (cellAt m.s (j % 4) ^^^ cellAt m.s (j % 4 + 4) ^^^ cellAt m.s (j % 4 + 8) ^^^ cellAt m.s (j % 4 + 12)
        ^^^ cellAt m.s j ^^^ cellAt (nibbles k) n ^^^ cellAt m.t n ^^^ cellAt (nibbles (mantisConstant i)) n)) ∧
    ∀ n < 16, cellAt (mantisInvRound k i m).t n =
      cellAt m.t ([4, 5, 6, 7, 11, 1, 0, 8, 12, 13, 14, 15, 9, 10, 2, 3].getD n 0)) ∧
  (∀ s : Cells 4, ∀ n < 16, cellAt (mantisMiddle s) n =
    let x := fun j => sboxM (cellAt s j)
    sboxM (x (n % 4) ^^^ x (n % 4 + 4) ^^^ x (n % 4 + 8) ^^^ x (n % 4 + 12) ^^^ x n)) ∧
  ∀ (k : BitVec 64) (n : Nat) (m : MantisState),
    mantisForward k n m = (List.range n).foldl (fun x i => mantisRound k i x) m ∧
    mantisReverse k n m = (List.range n).reverse.foldl (fun x i => mantisInvRound k i x) m

/-- MantisCrypt: whitening with k0 ⊕ k1 ⊕ T, the slot's forward rounds under k1, the middle, the reverse rounds under k1 ⊕ α,
after which the tweak is the one it began with, and whitening with k0p ⊕ k1 ⊕ α ⊕ T (42_block_crypt.md R229). -/
def MantisCryptComposition : Prop :=
  ∀ (slot : KeySlot) (b : List Byte) (t : BitVec 64), ∃ x : Cells 4,
    (∀ n < 16, (cellAt x n).toNat = serialCell .mantis b n ^^^ (cellAt (nibbles (slot.k0 ^^^ slot.k1 ^^^ t)) n).toNat) ∧
      let k1a := slot.k1 ^^^ 0x243f6a8885a308d3
      let fwd := mantisForward slot.k1 slot.rounds ⟨x, nibbles t⟩
      let rev := mantisReverse k1a slot.rounds ⟨mantisMiddle fwd.s, fwd.t⟩
      rev.t = nibbles t ∧ (mantisCrypt slot b t).length = 8 ∧
        ∀ n < 16, serialCell .mantis (mantisCrypt slot b t) n =
          (cellAt rev.s n ^^^ cellAt (nibbles (slot.k0p ^^^ k1a ^^^ t)) n).toNat

/-- MantisCrypt as whitening, rounds, middle, reverse rounds and whitening, with the rounds and the middle cell by cell and
the round constants by value (42_block_crypt.md R225-R229). -/
def Obligations.MantisRoundCellByCell : Prop :=
  (List.range 8).map mantisConstant =
    [0x13198a2e03707344, 0xa4093822299f31d0, 0x082efa98ec4e6c89, 0x452821e638d01377,
     0xbe5466cf34e90c6c, 0xc0ac29b7c97c50dd, 0x3f84d5b5b5470917, 0x9216d5d98979fb1b] ∧
  MantisRoundCells ∧ MantisCryptComposition

/-- The round constants of rounds 0..55, and the period 63 of the sequence (41_key_setup.md R172). -/
def Obligations.RoundConstantsTable : Prop :=
  (List.range 56).map roundConstant =
    [0x01, 0x03, 0x07, 0x0f, 0x1f, 0x3e, 0x3d, 0x3b, 0x37, 0x2f, 0x1e, 0x3c, 0x39, 0x33, 0x27, 0x0e,
     0x1d, 0x3a, 0x35, 0x2b, 0x16, 0x2c, 0x18, 0x30, 0x21, 0x02, 0x05, 0x0b, 0x17, 0x2e, 0x1c, 0x38,
     0x31, 0x23, 0x06, 0x0d, 0x1b, 0x36, 0x2d, 0x1a, 0x34, 0x29, 0x12, 0x24, 0x08, 0x11, 0x22, 0x04,
     0x09, 0x13, 0x26, 0x0c, 0x19, 0x32, 0x25, 0x0a] ∧
  (∀ r, roundConstant (r + 63) = roundConstant r) ∧
  ∀ p, 0 < p → p < 63 → roundConstant p ≠ roundConstant 0

/-- The round keys: the tweakey words start as loaded, each round step permutes them by P_T and passes the first two rows of
TK2 through LFSR2 and of TK3 through LFSR3, and RK(r) is the XOR of the first two rows of the words after r steps, with the
round constant in cells 0 and 4 and the domain bit 0x2 in cell 2 of a tweaked slot (41_key_setup.md R175-R177). -/
def RoundKeysOfWords : Prop :=
  ∀ (w : Nat) (e : Engine w) (z : Nat) (tweaked : Bool) (tk : Tweakeys w), 1 ≤ z → z ≤ 3 →
    tkAfter e z tk 0 = tk ∧
    ∀ r,
      let t := tkAfter e z tk r
      let u := tkAfter e z tk (r + 1)
      let rk := roundKey e z tweaked tk r
      (∀ i < 16,
        let p := [9, 15, 8, 13, 10, 14, 12, 11, 0, 1, 2, 3, 4, 5, 6, 7].getD i 0
        cellAt u.t0 i = cellAt t.t0 p ∧
        cellAt u.t1 i =
          (if z < 2 then cellAt t.t1 i else if i < 8 then e.lfsr2 (cellAt t.t1 p) else cellAt t.t1 p) ∧
        cellAt u.t2 i =
          (if z < 3 then cellAt t.t2 i else if i < 8 then e.lfsr3 (cellAt t.t2 p) else cellAt t.t2 p)) ∧
      ∀ i < 8, [rk.r0, rk.r1, rk.r2, rk.r3, rk.r4, rk.r5, rk.r6, rk.r7].getD i 0 =
        cellAt t.t0 i ^^^ (if 2 ≤ z then cellAt t.t1 i else 0) ^^^ (if 3 ≤ z then cellAt t.t2 i else 0) ^^^
          (if i = 0 then BitVec.ofNat w ((roundConstant r).toNat % 16)
           else if i = 2 then (if tweaked then BitVec.ofNat w 2 else 0)
           else if i = 4 then BitVec.ofNat w ((roundConstant r).toNat / 16) else 0)

/-- The round keys of tweakey words step by step, and RK(slot, r) as those of the slot's z, tweaked flag and words, each cell
of a word taken in the cell width (41_key_setup.md R175-R177; how a slot stores a cell is log 7). -/
def Obligations.RoundKeysFromTweakeyWords : Prop :=
  RoundKeysOfWords ∧
    ∀ (w : Nat) (e : Engine w) (slot : KeySlot), ∃ tk : Tweakeys w,
      (∀ i < 16,
        (cellAt tk.t0 i).toNat = (cellAt slot.tk.t0 i).toNat % 2 ^ w ∧
        (cellAt tk.t1 i).toNat = (cellAt slot.tk.t1 i).toNat % 2 ^ w ∧
        (cellAt tk.t2 i).toNat = (cellAt slot.tk.t2 i).toNat % 2 ^ w) ∧
      ∀ r, slotRoundKey e slot r = roundKey e slot.z slot.tweaked tk r

/-- Replacing TK1 changes the round key of round `r` by the XOR of the old and the new word, each permuted `r` times by P_T:
the change-tweak equivalence (41_key_setup.md R178). -/
def Obligations.RetweakChangesRoundKeyByXor : Prop :=
  ∀ (w : Nat) (e : Engine w) (z : Nat) (tweaked : Bool) (tk : Tweakeys w) (new : Cells w) (r : Nat), 1 ≤ z →
    let delta : Nat → BitVec w := fun i => cellAt (permTK^[r] tk.t0) i ^^^ cellAt (permTK^[r] new) i
    let old := roundKey e z tweaked tk r
    roundKey e z tweaked { tk with t0 := new } r =
      { r0 := old.r0 ^^^ delta 0, r1 := old.r1 ^^^ delta 1, r2 := old.r2 ^^^ delta 2, r3 := old.r3 ^^^ delta 3
        r4 := old.r4 ^^^ delta 4, r5 := old.r5 ^^^ delta 5, r6 := old.r6 ^^^ delta 6, r7 := old.r7 ^^^ delta 7 }

/-! ### The CTR unit -/

/-- CTR_INIT makes a context of its cipher with no key, counter 0 and an exhausted zero buffer, whatever was there, and
changes nothing else (43_ctr.md R265). -/
def Obligations.CtrInitMakesFreshContext : Prop :=
  ∀ (s : State) (c : Cipher),
    exec (.ctrInit c) s = .next (succeeded
      { s with
        cx :=
          { init := true, cipher := c, ks := zeroSlot, c := 0
            buf := List.replicate (s.cfg.lanes.count * blockSize c) 0
            offset := s.cfg.lanes.count * blockSize c } })

/-- CTR_SET_KEY and CTR_SET_TWEAKED_KEY load the context's own slot and discard the keystream; the counter and everything
else stay (43_ctr.md R266, R267, R262). -/
def Obligations.CtrKeyCommandsLoadSlot : Prop :=
  ∀ (s : State) (c : Cipher), s.latch.Sized → s.cx.init = true → s.cx.cipher = c →
    let rekeyed := fun slot : KeySlot => succeeded
      { s with cx := { s.cx with ks := slot, offset := s.cfg.lanes.count * blockSize c } }
    (∀ z, c ≠ .mantis → 1 ≤ z → z ≤ 3 → ∃ slot, LoadedSkinny c z s.latch.key slot ∧
      exec (.ctrSetKey c false (BitVec.ofNat 9 (z * blockSize c)) 0) s = .next (rekeyed slot)) ∧
    (∀ r : BitVec 4, c = .mantis → 5 ≤ r.toNat → r.toNat ≤ 8 →
      ∃ slot, LoadedMantis r.toNat false s.latch.key slot ∧
        exec (.ctrSetKey c false 16 r) s = .next (rekeyed slot)) ∧
    (∀ m, c ≠ .mantis → 1 ≤ m → m ≤ 2 → ∃ slot, LoadedTweaked c m s.latch.key slot ∧
      exec (.ctrSetTweakedKey c false (BitVec.ofNat 9 (m * blockSize c))) s = .next (rekeyed slot))

/-- CTR_SET_TWEAK replaces the tweak of the context's slot and discards the keystream; the counter and everything else stay
(43_ctr.md R268). -/
def Obligations.CtrSetTweakReplacesTweak : Prop :=
  ∀ (s : State) (c : Cipher) (nullp : Bool) (len : BitVec 9), s.latch.Sized → s.cx.init = true → s.cx.cipher = c →
    s.cx.ks.valid = true → s.cx.ks.tweaked = true → (nullp = true → len = 0) → len.toNat ≤ blockSize c →
    let rekeyed := fun slot : KeySlot => succeeded
      { s with cx := { s.cx with ks := slot, offset := s.cfg.lanes.count * blockSize c } }
    ∃ tb, TweakBytes c nullp len s.latch.tweak tb ∧
      (c = .mantis → ∃ x, BigEndian64 x (fun k => tb.getD k 0) ∧
        exec (.ctrSetTweak c nullp len) s = .next (rekeyed { s.cx.ks with tweak := x })) ∧
      (c ≠ .mantis → ∃ t, WordOfBytes c t tb ∧
        exec (.ctrSetTweak c nullp len) s
          = .next (rekeyed { s.cx.ks with tk := { s.cx.ks.tk with t0 := t } }))

/-- CTR_SET_COUNTER sets the counter to the big-endian value of COUNTER[0..L-1], zero when null or empty, and discards the
keystream; it needs no key and changes nothing else (43_ctr.md R269). -/
def Obligations.CtrSetCounterSetsCounter : Prop :=
  ∀ (s : State) (c : Cipher) (nullp : Bool) (len : BitVec 9), s.latch.Sized → s.cx.init = true → s.cx.cipher = c →
    (nullp = true → len = 0) → len.toNat ≤ blockSize c →
    exec (.ctrSetCounter c nullp len) s = .next (succeeded
      { s with
        cx := { s.cx with
          c := ((List.range len.toNat).map fun k =>
            (s.latch.counter.getD k 0).toNat * 256 ^ (len.toNat - 1 - k)).sum
          offset := s.cfg.lanes.count * blockSize c } })

/-- CTR_ENCRYPT on a legal keyed context XORs the input with the keystream: first what is left of the buffer, then the blocks
E(c), E(c+1), … from the context's counter on. DATA_OUT past LEN, every other byte and every other field but those of the
context stay, and the context ends as the refills leave it (43_ctr.md R260, R261, R271). -/
def Obligations.CtrEncryptAppliesKeystream : Prop :=
  ∀ (s : State) (c : Cipher) (len : BitVec 9), s.latch.Sized → LegalContext s.cfg.lanes.count s.cx →
    s.cx.init = true → s.cx.cipher = c → s.cx.ks.valid = true → len.toNat ≤ 256 →
    let size := s.cfg.lanes.count * blockSize c
    let refills := (s.cx.offset + len.toNat - 1) / size
    ∃ t, exec (.ctrEncrypt c false len) s = .next t ∧
      (∀ i < len.toNat, t.mem.read (0x200 + i) =
        s.latch.dataIn.getD i 0 ^^^
          (if s.cx.offset + i < size then s.cx.buf.getD (s.cx.offset + i) 0
           else keystreamByte s.cx (s.cx.offset + i - size))) ∧
      (∀ a, a < 0x200 ∨ 0x200 + len.toNat ≤ a → t.mem.read a = s.mem.read a) ∧
      t = { succeeded s with mem := t.mem, cx := t.cx } ∧
      t.cx =
        { s.cx with
          c := (s.cx.c + s.cfg.lanes.count * refills) % 2 ^ (8 * blockSize c)
          offset := s.cx.offset + len.toNat - size * refills
          buf := if refills = 0 then s.cx.buf
            else (List.range size).map fun x => keystreamByte s.cx (size * (refills - 1) + x) }

/-- CTR_CLEANUP zeroes every field of the context, whether or not there is one, and changes nothing else
(43_ctr.md R272). -/
def Obligations.CtrCleanupZeroesContext : Prop :=
  ∀ (s : State) (c : Cipher), ∃ cx : CtrContext,
    exec (.ctrCleanup c) s = .next (succeeded { s with cx := cx }) ∧ cx.init = false ∧ cx.cipher = .s64 ∧
      cx.ks = zeroSlot ∧ cx.c = 0 ∧ cx.offset = 0 ∧ ∀ b ∈ cx.buf, b = 0

/-- Splitting a message gives the same output and the same context as one pass over the whole, and the stream over its own
output gives the input back and ends in the same context: one command encrypts and decrypts (43_ctr.md R264). -/
def Obligations.CtrStreamSplitsAndInverts : Prop :=
  ∀ (k : Nat) (cx : CtrContext) (xs ys : List Byte),
    ctrStream k cx (xs ++ ys) =
        ((ctrStream k cx xs).1 ++ (ctrStream k (ctrStream k cx xs).2 ys).1,
          (ctrStream k (ctrStream k cx xs).2 ys).2) ∧
      ctrStream k cx (ctrStream k cx xs).1 = (xs, (ctrStream k cx xs).2)

/-- Contexts of two lane counts that agree on cipher, keyed slot and counter and have no keystream left give the same bytes
for any stream: K shows only after a re-key (43_ctr.md R262). -/
def Obligations.LaneCountHiddenInOneStream : Prop :=
  ∀ (m n : Lanes) (a b : CtrContext) (xs : List Byte), LegalContext m.count a → LegalContext n.count b →
    a.init = true → a.ks.valid = true → b.cipher = a.cipher → b.ks = a.ks → b.c = a.c →
    a.offset = m.count * blockSize a.cipher → b.offset = n.count * blockSize b.cipher →
    (ctrStream m.count a xs).1 = (ctrStream n.count b xs).1

/-! ### Engine commands -/

/-- `i` is a PRIM_* command that publishes a block whose cells are `f` of the cells of BLOCK_IN, and changes nothing else:
bytes bs..15 of BLOCK_OUT are 0 (40_engines.md R145). -/
def PrimComputes (i : Instr) (c : Cipher) (f : (Nat → Nat) → Nat → Nat) : Prop :=
  ∀ s : State, ∃ t y, exec i s = .next t ∧ y.length = blockSize c ∧ BlockPublished s t y ∧
    ∀ n < 16, serialCell c y n = f (serialCell c s.latch.blockIn) n

/-- PRIM_SBOX and PRIM_INV_SBOX apply the cipher's table and its inverse to every cell (40_engines.md R146, R147). -/
def Obligations.PrimSboxesApplyTables : Prop :=
  PrimComputes (.primSbox .s64) .s64 (fun x n => (sbox4 (BitVec.ofNat 4 (x n))).toNat) ∧
    PrimComputes (.primSbox .s128) .s128 (fun x n => (sbox8 (BitVec.ofNat 8 (x n))).toNat) ∧
    PrimComputes (.primSbox .mantis) .mantis (fun x n => (sboxM (BitVec.ofNat 4 (x n))).toNat) ∧
    PrimComputes (.primInvSbox .s64) .s64 (fun x n => (sbox4Inv (BitVec.ofNat 4 (x n))).toNat) ∧
    PrimComputes (.primInvSbox .s128) .s128 (fun x n => (sbox8Inv (BitVec.ofNat 8 (x n))).toNat) ∧
    PrimComputes (.primInvSbox .mantis) .mantis (fun x n => (sboxM (BitVec.ofNat 4 (x n))).toNat)

/-- PRIM_SHIFT_ROWS and PRIM_INV_SHIFT_ROWS permute the cells by P_SR or P_M and their inverses (40_engines.md R148, R149). -/
def Obligations.PrimShiftRowsPermuteCells : Prop :=
  (∀ c : Cipher, c ≠ .mantis →
    PrimComputes (.primShiftRows c) c
      (fun x n => x ([0, 1, 2, 3, 7, 4, 5, 6, 10, 11, 8, 9, 13, 14, 15, 12].getD n 0)) ∧
    PrimComputes (.primInvShiftRows c) c
      (fun x n => x ([0, 1, 2, 3, 5, 6, 7, 4, 10, 11, 8, 9, 15, 12, 13, 14].getD n 0))) ∧
  PrimComputes (.primShiftRows .mantis) .mantis
    (fun x n => x ([0, 11, 6, 13, 10, 1, 12, 7, 5, 14, 3, 8, 15, 4, 9, 2].getD n 0)) ∧
  PrimComputes (.primInvShiftRows .mantis) .mantis
    (fun x n => x ([0, 5, 15, 10, 13, 8, 2, 7, 11, 14, 4, 1, 6, 3, 9, 12].getD n 0))

/-- PRIM_MIX_COLUMNS and PRIM_INV_MIX_COLUMNS XOR the cells of each column as the cipher's matrices say
(40_engines.md R150, R151, R134-R136). -/
def Obligations.PrimMixColumnsXorColumns : Prop :=
  (∀ c : Cipher, c ≠ .mantis →
    PrimComputes (.primMixColumns c) c
      (fun x n =>
        if n < 4 then x n ^^^ x (n + 8) ^^^ x (n + 12)
        else if n < 8 then x (n - 4)
        else if n < 12 then x (n - 4) ^^^ x n
        else x (n - 12) ^^^ x (n - 4)) ∧
    PrimComputes (.primInvMixColumns c) c
      (fun x n =>
        if n < 4 then x (n + 4)
        else if n < 8 then x n ^^^ x (n + 4) ^^^ x (n + 8)
        else if n < 12 then x (n - 4) ^^^ x (n + 4)
        else x (n - 12) ^^^ x n)) ∧
  (∀ i ∈ [Instr.primMixColumns .mantis, Instr.primInvMixColumns .mantis],
    PrimComputes i .mantis
      (fun x n => x (n % 4) ^^^ x (n % 4 + 4) ^^^ x (n % 4 + 8) ^^^ x (n % 4 + 12) ^^^ x n))

/-- PRIM_TWEAK_PERM and PRIM_INV_TWEAK_PERM permute the cells by P_T or P_H and their inverses (40_engines.md R152, R153). -/
def Obligations.PrimTweakPermsPermuteCells : Prop :=
  (∀ c : Cipher, c ≠ .mantis →
    PrimComputes (.primTweakPerm c) c
      (fun x n => x ([9, 15, 8, 13, 10, 14, 12, 11, 0, 1, 2, 3, 4, 5, 6, 7].getD n 0)) ∧
    PrimComputes (.primInvTweakPerm c) c
      (fun x n => x ([8, 9, 10, 11, 12, 13, 14, 15, 2, 0, 4, 7, 6, 3, 5, 1].getD n 0))) ∧
  PrimComputes (.primTweakPerm .mantis) .mantis
    (fun x n => x ([6, 5, 14, 15, 0, 1, 2, 3, 7, 12, 13, 4, 8, 9, 10, 11].getD n 0)) ∧
  PrimComputes (.primInvTweakPerm .mantis) .mantis
    (fun x n => x ([4, 5, 6, 7, 11, 1, 0, 8, 12, 13, 14, 15, 9, 10, 2, 3].getD n 0))

/-- PRIM_LFSR2 and PRIM_LFSR3 shift every cell by one bit with the feedback bit of 40_engines.md R139 and R140, and their
Mantis forms are ILLEGAL (R154, R155). -/
def Obligations.PrimLfsrsShiftCells : Prop :=
  PrimComputes (.primLfsr2 .s64) .s64
      (fun x n => 2 * x n % 16 + (if (x n).testBit 3 = (x n).testBit 2 then 0 else 1)) ∧
    PrimComputes (.primLfsr2 .s128) .s128
      (fun x n => 2 * x n % 256 + (if (x n).testBit 7 = (x n).testBit 5 then 0 else 1)) ∧
    PrimComputes (.primLfsr3 .s64) .s64
      (fun x n => x n / 2 + (if (x n).testBit 0 = (x n).testBit 3 then 0 else 8)) ∧
    PrimComputes (.primLfsr3 .s128) .s128
      (fun x n => x n / 2 + (if (x n).testBit 0 = (x n).testBit 6 then 0 else 128)) ∧
    ∀ s : State, exec (.primLfsr2 .mantis) s = .next (failed s 1) ∧ exec (.primLfsr3 .mantis) s = .next (failed s 1)

/-- One pass of the S8 network: two NOR mixes (40_engines.md R125). -/
def s8Mix (x : Byte) : Byte :=
  let y := x ^^^ ((~~~((x >>> 7) ||| (x >>> 6)) &&& 1) <<< 4)
  y ^^^ (~~~((y >>> 3) ||| (y >>> 2)) &&& 1)

/-- One pass of the S4 network: a NOR mix (40_engines.md R122). -/
def s4Mix (x : BitVec 4) : BitVec 4 := x ^^^ (~~~((x >>> 3) ||| (x >>> 2)) &&& 1)

/-- The byte whose bits 7..0 are the bits of `x` at the listed places. -/
def pickBits (x : Byte) (places : List Nat) : Byte :=
  places.foldl (fun acc i => (acc <<< 1) ||| ((x >>> i) &&& 1)) 0

/-- The S-box tables and the LFSRs invert each other over the whole cell domain, both LFSRs send 0 to 0, the permutations and
the mixes invert each other on arrays of any cell width, S4 and SM have the values of their tables, and S4 and S8 are what
their boolean networks compute (40_engines.md R122, R123, R125, R128, R129, R141, and the inversions of R142). -/
def Obligations.EngineFunctionsInvert : Prop :=
  (∀ x, sbox4Inv (sbox4 x) = x ∧ sbox4 (sbox4Inv x) = x) ∧ (∀ x, sbox8Inv (sbox8 x) = x ∧ sbox8 (sbox8Inv x) = x) ∧
    (∀ x, sboxM (sboxM x) = x) ∧ (∀ x, lfsr3w4 (lfsr2w4 x) = x ∧ lfsr2w4 (lfsr3w4 x) = x) ∧
    (∀ x, lfsr3w8 (lfsr2w8 x) = x ∧ lfsr2w8 (lfsr3w8 x) = x) ∧
    (lfsr2w4 0 = 0 ∧ lfsr3w4 0 = 0 ∧ lfsr2w8 0 = 0 ∧ lfsr3w8 0 = 0) ∧
    (∀ (w : Nat) (s : Cells w), invShiftRows (shiftRows s) = s ∧ invPermuteCells (permuteCells s) = s ∧
      invMixColumns (mixColumns s) = s ∧ mixColumns (invMixColumns s) = s ∧ mixColumnsM (mixColumnsM s) = s ∧
      tweakHInv (tweakH s) = s ∧ invPermTK (permTK s) = s) ∧
    ((List.range 16).map (fun x => (sbox4 (BitVec.ofNat 4 x)).toNat) =
        [0xc, 0x6, 0x9, 0x0, 0x1, 0xa, 0x2, 0xb, 0x3, 0x8, 0x5, 0xd, 0x4, 0xe, 0x7, 0xf] ∧
      (List.range 16).map (fun x => (sboxM (BitVec.ofNat 4 x)).toNat) =
        [0xc, 0xa, 0xd, 0x3, 0xe, 0xb, 0xf, 0x7, 0x8, 0x9, 0x1, 0x5, 0x0, 0x2, 0x4, 0x6]) ∧
    (∀ x : BitVec 4,
      let p := fun y : BitVec 4 => (s4Mix y).rotateLeft 1
      sbox4 x = s4Mix (p (p (p x)))) ∧
    ∀ x : Byte,
      let p := fun y : Byte => pickBits (s8Mix y) [2, 1, 7, 6, 4, 0, 3, 5]
      sbox8 x = pickBits (s8Mix (p (p (p x)))) [7, 6, 5, 4, 3, 1, 2, 0]

/-! ### Whole-machine rules -/

/-- The CTR commands. -/
def IsCtrCommand : Instr → Prop
  | .ctrInit _ => True
  | .ctrSetKey _ _ _ _ => True
  | .ctrSetTweakedKey _ _ _ => True
  | .ctrSetTweak _ _ _ => True
  | .ctrSetCounter _ _ _ => True
  | .ctrEncrypt _ _ _ => True
  | .ctrCleanup _ => True
  | .setKey _ _ _ _ _ => False
  | .setTweakedKey _ _ _ => False
  | .setTweak _ _ _ => False
  | .swapModes _ => False
  | .clearKey _ => False
  | .encryptBlock _ => False
  | .decryptBlock _ => False
  | .cryptTweaked _ => False
  | .primSbox _ => False
  | .primInvSbox _ => False
  | .primShiftRows _ => False
  | .primInvShiftRows _ => False
  | .primMixColumns _ => False
  | .primInvMixColumns _ => False
  | .primTweakPerm _ => False
  | .primInvTweakPerm _ => False
  | .primLfsr2 _ => False
  | .primLfsr3 _ => False

/-- No command writes CMD, the configuration or a byte outside BLOCK_OUT and DATA_OUT; block, key and engine commands never
touch the CTR context or DATA_OUT, and CTR commands never touch the block key slot or BLOCK_OUT (10_state.md R27-R33, R47,
92_eei_decisions.md D40). -/
def Obligations.CommandsWriteOnlyTheirOutputs : Prop :=
  ∀ (i : Instr) (s t : State), exec i s = .next t →
    (t.cmd = s.cmd ∧ t.cfg = s.cfg ∧ t.schedule = s.schedule ∧ t.response = s.response ∧ t.draws = s.draws) ∧
    (∀ a, ¬ CoreWritten a → t.mem.read a = s.mem.read a) ∧
    (IsCtrCommand i → t.bk = s.bk ∧ ∀ a, 0x0B0 ≤ a → a < 0x0C0 → t.mem.read a = s.mem.read a) ∧
    (¬ IsCtrCommand i → t.cx = s.cx ∧ ∀ a, 0x200 ≤ a → a < 0x300 → t.mem.read a = s.mem.read a)

/-- No command's behaviour depends on STATUS, but that OVERRUN stays (10_state.md R35). -/
def Obligations.CommandsIgnoreStatus : Prop :=
  ∀ (i : Instr) (s t : State) (q : Status), exec i s = .next t →
    exec i { s with status := q } = .next { t with status := { t.status with overrun := q.overrun } }

/-- No bus access shows a secret bit: two states that differ only in secrets answer every access alike and then still
differ only in secrets (10_state.md R44). -/
def Obligations.BusNeverShowsSecrets : Prop :=
  ∀ (s t : State) (a : Access) (rest : List Turn), s.schedule = .access a :: rest → SamePublic s t →
    (∃ why, step s = .fault why ∧ step t = .fault why) ∨
      ∃ s' t', step s = .next s' ∧ step t = .next t' ∧ s'.response = t'.response ∧ SamePublic s' t'

/-- Nothing the host does while a command is in flight changes which command that is or what it does: any access leaves the
sequencer with its Latch as it was, and the command then leaves the same slot, context, bytes and result, but for OVERRUN
(20_memory.md R78, R79). -/
def Obligations.HostCannotChangeCommandInFlight : Prop :=
  ∀ (s s' : State) (a : Access) (i : Instr), s.Inv → s.seq.busy = true → s.busAccess a = .next s' →
    s'.seq = s.seq ∧ ∃ t t', exec i s = .next t ∧ exec i s' = .next t' ∧ t'.bk = t.bk ∧ t'.cx = t.cx ∧ t'.mem = t.mem ∧
      t'.cmd = t.cmd ∧ t'.seq = t.seq ∧ t'.status.ok = t.status.ok ∧ t'.status.err = t.status.err
end

