-- ==== Sys2Proof/Laws/Cells.lean ====
section
/-! SUPPORT. Cell arrays: every operation cell by cell, and the lengths of serialized blocks. -/

namespace Sys2Proof.Machine

variable {v w : Nat}

/-- The cells of a built array. -/
theorem cellAt_cellsOf (f : Nat → BitVec w) (i : Nat) (h : i < 16) : cellAt (cellsOf f) i = f i := by
  interval_cases i <;> rfl

/-- Two arrays with the same cells are the same. -/
theorem cells_ext {a b : Cells w} (h : ∀ i < 16, cellAt a i = cellAt b i) : a = b := by
  obtain ⟨a0, a1, a2, a3, a4, a5, a6, a7, a8, a9, a10, a11, a12, a13, a14, a15⟩ := a
  obtain ⟨b0, b1, b2, b3, b4, b5, b6, b7, b8, b9, b10, b11, b12, b13, b14, b15⟩ := b
  have e := fun i hi => h i hi
  simp only [Cells.mk.injEq]
  exact ⟨e 0 (by decide), e 1 (by decide), e 2 (by decide), e 3 (by decide), e 4 (by decide), e 5 (by decide),
    e 6 (by decide), e 7 (by decide), e 8 (by decide), e 9 (by decide), e 10 (by decide), e 11 (by decide),
    e 12 (by decide), e 13 (by decide), e 14 (by decide), e 15 (by decide)⟩

/-- An array is built from its cells. -/
theorem cellsOf_cellAt (s : Cells w) : cellsOf (cellAt s) = s := cells_ext fun i h => cellAt_cellsOf _ i h

theorem cellAt_mapCells (f : BitVec v → BitVec w) (s : Cells v) (i : Nat) (h : i < 16) :
    cellAt (mapCells f s) i = f (cellAt s i) := cellAt_cellsOf _ i h

theorem cellAt_xorCells (a b : Cells w) (i : Nat) (h : i < 16) :
    cellAt (xorCells a b) i = cellAt a i ^^^ cellAt b i := cellAt_cellsOf _ i h

theorem cellAt_permute (p : List Nat) (s : Cells w) (i : Nat) (h : i < 16) :
    cellAt (permute p s) i = cellAt s (p.getD i 0) := cellAt_cellsOf _ i h

theorem cellAt_zeroCells (i : Nat) (h : i < 16) : cellAt (zeroCells w) i = 0 := by
  interval_cases i <;> rfl

theorem xorCells_self_right (a k : Cells w) : xorCells (xorCells a k) k = a :=
  cells_ext fun i h => by
    rw [cellAt_xorCells _ _ i h, cellAt_xorCells _ _ i h, BitVec.xor_assoc, BitVec.xor_self, BitVec.xor_zero]

theorem xorCells_comm (a b : Cells w) : xorCells a b = xorCells b a :=
  cells_ext fun i h => by rw [cellAt_xorCells _ _ i h, cellAt_xorCells _ _ i h, BitVec.xor_comm]

@[simp] theorem length_cellList (s : Cells w) : (cellList s).length = 16 := rfl

@[simp] theorem length_bytes8 (s : Cells 8) : (bytes8 s).length = 16 := rfl

@[simp] theorem length_bytes4 (s : Cells 4) : (bytes4 s).length = 8 := by simp [bytes4]

@[simp] theorem length_beBytes (n x : Nat) : (beBytes n x).length = n := by simp [beBytes]

/-- A block function's result has the block size. -/
theorem length_skinnyEncrypt (slot : KeySlot) (b : List Byte) :
    (skinnyEncrypt slot b).length = blockSize slot.cipher := by
  unfold skinnyEncrypt
  split <;> rename_i h <;> simp [h, blockSize]

theorem length_skinnyDecrypt (slot : KeySlot) (b : List Byte) :
    (skinnyDecrypt slot b).length = blockSize slot.cipher := by
  unfold skinnyDecrypt
  split <;> rename_i h <;> simp [h, blockSize]

@[simp] theorem length_mantisCrypt (slot : KeySlot) (b : List Byte) (t : BitVec 64) :
    (mantisCrypt slot b t).length = 8 := by simp [mantisCrypt]

theorem length_blockEncrypt (slot : KeySlot) (b : List Byte) :
    (blockEncrypt slot b).length = blockSize slot.cipher := by
  unfold blockEncrypt
  split <;> rename_i h
  · simp [h, blockSize]
  · rw [length_skinnyEncrypt]
  · rw [length_skinnyEncrypt]

end Sys2Proof.Machine
end

