-- ==== Sys2Proof/Laws/Decode.lean ====
section
/-! SUPPORT. The fields of an encoded word, one lemma per field. -/

namespace Sys2Proof

variable (op : Word) (c : Cipher) (n : Bool) (l : BitVec 9) (r : BitVec 4) (m : Bool)

theorem code_low (i : Nat) (h : 2 ≤ i) : c.code.getLsbD i = false := by
  have hlt : c.code.toNat < 2 ^ i :=
    lt_of_lt_of_le (by cases c <;> decide : c.code.toNat < 2 ^ 2) (Nat.pow_le_pow_right (Nat.succ_pos 1) h)
  rw [BitVec.getLsbD, Nat.testBit_lt_two_pow hlt]

theorem flagCode_bit (b : Bool) (i : Nat) : (flagCode b).getLsbD i = (b && decide (i = 0)) := by
  cases b
  · simp [flagCode]
  · change (1#32).getLsbD i = _
    rw [BitVec.getLsbD_one]
    simp

theorem op_high (hop : op.toNat < 32) (i : Nat) (h : 5 ≤ i) : op.getLsbD i = false := by
  have hlt : op.toNat < 2 ^ i := lt_of_lt_of_le hop (Nat.pow_le_pow_right (Nat.succ_pos 1) h)
  rw [BitVec.getLsbD, Nat.testBit_lt_two_pow hlt]

/-- One bit of an encoded word. -/
theorem packWord_bit (i : Nat) (h : i < 32) :
    (packWord op c n l r m).getLsbD i =
      (op.getLsbD i || (decide (5 ≤ i) && c.code.getLsbD (i - 5)) || (n && decide (i = 7))
        || (decide (8 ≤ i) && l.getLsbD (i - 8)) || (decide (17 ≤ i) && r.getLsbD (i - 17))
        || (m && decide (i = 21))) := by
  simp only [packWord, BitVec.getLsbD_or, BitVec.getLsbD_shiftLeft, BitVec.getLsbD_setWidth, flagCode_bit]
  have e7 : (decide (i < 32) && !decide (i < 7) && (n && decide (i - 7 = 0))) = (n && decide (i = 7)) := by
    cases n
    · simp
    · by_cases h7 : i = 7
      · subst h7; rfl
      · rw [show decide (i = 7) = false by simpa using h7]
        by_cases hlt : i < 7
        · simp [hlt]
        · simp [show ¬ i - 7 = 0 by omega]
  have e21 : (decide (i < 32) && !decide (i < 21) && (m && decide (i - 21 = 0))) = (m && decide (i = 21)) := by
    cases m
    · simp
    · by_cases h21 : i = 21
      · subst h21; rfl
      · rw [show decide (i = 21) = false by simpa using h21]
        by_cases hlt : i < 21
        · simp [hlt]
        · simp [show ¬ i - 21 = 0 by omega]
  rw [e7, e21]
  have e (k : Nat) : (!decide (i < k)) = decide (k ≤ i) := by
    by_cases hk : i < k
    · simp [hk]
    · simp [hk]; omega
  have hk (k : Nat) : decide (i - k < 32) = true := by simp; omega
  simp only [h, e, hk, decide_true, Bool.true_and]

theorem opField_packWord : opField (packWord op c n l r m) = op.setWidth 5 := by
  ext i hi
  simp only [opField, BitVec.getElem_extractLsb', BitVec.getElem_setWidth]
  rw [packWord_bit _ _ _ _ _ _ _ (by omega)]
  have h1 : ¬ 5 ≤ i := by omega
  simp [h1, show ¬ 8 ≤ i by omega, show ¬ 17 ≤ i by omega, show ¬ i = 7 by omega, show ¬ i = 21 by omega]

theorem cipherField_packWord (hop : op.toNat < 32) :
    cipherField (packWord op c n l r m) = c.code.setWidth 2 := by
  ext i hi
  simp only [cipherField, BitVec.getElem_extractLsb', BitVec.getElem_setWidth]
  rw [packWord_bit _ _ _ _ _ _ _ (by omega), op_high op hop _ (by omega)]
  simp [show ¬ 8 ≤ 5 + i by omega, show ¬ 17 ≤ 5 + i by omega, show ¬ 5 + i = 7 by omega, show ¬ 5 + i = 21 by omega]

theorem nullpField_packWord (hop : op.toNat < 32) : nullpField (packWord op c n l r m) = n := by
  rw [nullpField, packWord_bit _ _ _ _ _ _ _ (by omega), op_high op hop _ (by omega), code_low c _ (by omega)]
  simp

theorem lenField_packWord (hop : op.toNat < 32) : lenField (packWord op c n l r m) = l := by
  ext i hi
  simp only [lenField, BitVec.getElem_extractLsb']
  rw [packWord_bit _ _ _ _ _ _ _ (by omega), op_high op hop _ (by omega), code_low c _ (by omega)]
  simp [show ¬ 17 ≤ 8 + i by omega, show ¬ 8 + i = 7 by omega, show ¬ 8 + i = 21 by omega, BitVec.getLsbD_eq_getElem hi]

theorem roundsField_packWord (hop : op.toNat < 32) : roundsField (packWord op c n l r m) = r := by
  ext i hi
  simp only [roundsField, BitVec.getElem_extractLsb']
  rw [packWord_bit _ _ _ _ _ _ _ (by omega), op_high op hop _ (by omega), code_low c _ (by omega)]
  rw [BitVec.getLsbD_of_ge l _ (by omega)]
  simp [show ¬ 17 + i = 7 by omega, show ¬ 17 + i = 21 by omega, BitVec.getLsbD_eq_getElem hi]

theorem modeField_packWord (hop : op.toNat < 32) : modeField (packWord op c n l r m) = m := by
  rw [modeField, packWord_bit _ _ _ _ _ _ _ (by omega), op_high op hop _ (by omega), code_low c _ (by omega)]
  rw [BitVec.getLsbD_of_ge l _ (by omega), BitVec.getLsbD_of_ge r _ (by omega)]
  simp

theorem rsvField_packWord (hop : op.toNat < 32) : rsvField (packWord op c n l r m) = 0 := by
  ext i hi
  simp only [rsvField, BitVec.getElem_extractLsb']
  rw [packWord_bit _ _ _ _ _ _ _ (by omega), op_high op hop _ (by omega), code_low c _ (by omega)]
  rw [BitVec.getLsbD_of_ge l _ (by omega), BitVec.getLsbD_of_ge r _ (by omega)]
  simp [show ¬ 22 + i = 7 by omega, show ¬ 22 + i = 21 by omega]

/-- A cipher's field names that cipher. -/
theorem cipherOf_code : cipherOf (c.code.setWidth 2) = some c := by
  cases c <;> decide

end Sys2Proof
end

