-- ==== Sys2Proof/Laws/Memory.lean ====
section
/-! SUPPORT. Reading after writing, and the canonical form. -/

namespace Sys2Proof.Machine

/-! ### Reads after writes -/

theorem read_remove (m : Memory) (a b : Nat) :
    (m.remove a).read b = if b = a then unlistedByte else m.read b := by
  induction m with
  | nil => simp [Memory.remove, Memory.read]
  | cons e m ih =>
    obtain ⟨c, x⟩ := e
    simp only [Memory.remove] at ih
    by_cases hca : c = a
    · subst hca
      by_cases hb : b = c <;> simp_all [Memory.remove, Memory.read, eq_comm]
    · by_cases hb : b = a
      · subst hb
        simp_all [Memory.remove, Memory.read]
      · simp_all [Memory.remove, Memory.read]

theorem read_insert (m : Memory) (a b : Nat) (v : Byte) (h : m.read a = unlistedByte)
    (hm : ∀ e ∈ m, e.1 ≠ a) : (Memory.insert m a v).read b = if b = a then v else m.read b := by
  induction m with
  | nil => simp [Memory.insert, Memory.read, eq_comm]
  | cons e m ih =>
    obtain ⟨c, x⟩ := e
    change Memory.read ((c, x) :: m) a = unlistedByte at h
    have hc : c ≠ a := hm (c, x) (by simp)
    have hrest : ∀ e ∈ m, e.1 ≠ a := fun e he => hm e (by simp [he])
    have hread : Memory.read m a = unlistedByte := by simpa [Memory.read, hc] using h
    unfold Memory.insert
    split
    · by_cases hb : b = a
      · simp [Memory.read, hb]
      · simp [Memory.read, hb, Ne.symm hb]
    · by_cases hb : b = a
      · subst hb
        simp [Memory.read, hc, ih hread hrest]
      · simp [Memory.read, hb, ih hread hrest]

theorem mem_remove {m : Memory} {a : Nat} {e : Host.Cell} (h : e ∈ m.remove a) : e ∈ m ∧ e.1 ≠ a := by
  simpa [Memory.remove] using h

/-- A read after a write: the byte written at its offset, every other byte as before. -/
theorem read_write (m : Memory) (a b : Nat) (v : Byte) :
    (m.write a v).read b = if b = a then v else m.read b := by
  unfold Memory.write
  split
  · subst v
    exact read_remove m a b
  · rw [read_insert _ _ _ _ (by simp [read_remove]) fun e he => (mem_remove he).2, read_remove]
    split <;> rfl

/-- A read after consecutive writes. -/
theorem read_writeBytes (vs : List Byte) : ∀ (m : Memory) (a b : Nat),
    (m.writeBytes a vs).read b = if a ≤ b ∧ b < a + vs.length then vs.getD (b - a) 0 else m.read b := by
  induction vs with
  | nil =>
    intro m a b
    rw [if_neg (by simp only [List.length_nil]; omega)]
    rfl
  | cons v vs ih =>
    intro m a b
    rw [Memory.writeBytes, ih, read_write, List.length_cons]
    by_cases h1 : b = a
    · subst h1
      simp
    · by_cases h2 : a + 1 ≤ b ∧ b < a + 1 + vs.length
      · rw [if_pos h2, if_pos (by omega), show b - a = (b - (a + 1)) + 1 by omega, List.getD_cons_succ]
      · rw [if_neg h2, if_neg h1, if_neg (by omega)]

@[simp] theorem length_readBytes (m : Memory) (a n : Nat) : (m.readBytes a n).length = n := by
  simp [Memory.readBytes]

theorem getD_readBytes (m : Memory) (a n i : Nat) (h : i < n) : (m.readBytes a n).getD i 0 = m.read (a + i) := by
  simp [Memory.readBytes, List.getD_eq_getElem?_getD, h]

/-- Buffers read the same where their bytes do. -/
theorem readBytes_congr {m m' : Memory} {a n : Nat} (h : ∀ b, a ≤ b → b < a + n → m.read b = m'.read b) :
    m.readBytes a n = m'.readBytes a n := by
  simp only [Memory.readBytes]
  refine List.map_congr_left fun i hi => h _ (by omega) ?_
  have := List.mem_range.mp hi
  omega

/-! ### The canonical form -/

theorem above_of_mem {m : Memory} (hm : m.wf = true) : ∀ {a : Nat}, Memory.above a m = true → ∀ e ∈ m, a < e.1 := by
  induction m with
  | nil => simp
  | cons c m ih =>
    obtain ⟨b, x⟩ := c
    intro a h e he
    simp only [Memory.wf, Bool.and_eq_true] at hm
    simp only [Memory.above, decide_eq_true_eq] at h
    rcases List.mem_cons.mp he with rfl | he
    · exact h
    · exact lt_trans h (ih hm.2 hm.1.2 e he)

theorem above_of_forall {m : Memory} {a : Nat} (h : ∀ e ∈ m, a < e.1) : Memory.above a m = true := by
  cases m with
  | nil => rfl
  | cons c m => simpa [Memory.above] using h c (by simp)

theorem wf_remove {m : Memory} (a : Nat) (hm : m.wf = true) : (m.remove a).wf = true := by
  induction m with
  | nil => rfl
  | cons c m ih =>
    obtain ⟨b, x⟩ := c
    have hm' := hm
    simp only [Memory.wf, Bool.and_eq_true] at hm
    have hrest := ih hm.2
    by_cases hb : b = a
    · subst hb
      simpa [Memory.remove] using hrest
    · have hab : Memory.above b (Memory.remove m a) = true :=
        above_of_forall fun e he => above_of_mem hm.2 hm.1.2 e (mem_remove he).1
      have heq : Memory.remove ((b, x) :: m) a = (b, x) :: Memory.remove m a := by simp [Memory.remove, hb]
      rw [heq]
      simp only [Memory.wf, Bool.and_eq_true]
      exact ⟨⟨hm.1.1, hab⟩, hrest⟩

theorem above_insert {m : Memory} {a b : Nat} {v : Byte} (h : Memory.above b m = true) (hab : b < a) :
    Memory.above b (Memory.insert m a v) = true := by
  cases m with
  | nil => simpa [Memory.insert, Memory.above] using hab
  | cons c m =>
    obtain ⟨d, x⟩ := c
    simp only [Memory.insert]
    split
    · simpa [Memory.above] using hab
    · simpa [Memory.above] using h

theorem wf_insert {m : Memory} {a : Nat} {v : Byte} (hm : m.wf = true) (hne : ∀ e ∈ m, e.1 ≠ a)
    (hv : v ≠ unlistedByte) (ha : (bufferAt a).isSome = true) : (Memory.insert m a v).wf = true := by
  induction m with
  | nil => simp [Memory.insert, Memory.wf, Memory.above, hv, ha]
  | cons c m ih =>
    obtain ⟨b, x⟩ := c
    have hb : b ≠ a := hne (b, x) (by simp)
    have hm' := hm
    simp only [Memory.wf, Bool.and_eq_true] at hm
    simp only [Memory.insert]
    split
    · rename_i hlt
      simp only [Memory.wf, Bool.and_eq_true]
      exact ⟨⟨⟨by simpa using hv, ha⟩, by simpa [Memory.above] using hlt⟩, hm⟩
    · have hba : b < a := by omega
      simp only [Memory.wf, Bool.and_eq_true]
      exact ⟨⟨hm.1.1, above_insert hm.1.2 hba⟩, ih hm.2 fun e he => hne e (by simp [he])⟩

/-- A write into a buffer keeps the canonical form. -/
theorem wf_write {m : Memory} {a : Nat} {v : Byte} (hm : m.wf = true) (ha : (bufferAt a).isSome = true) :
    (m.write a v).wf = true := by
  unfold Memory.write
  split
  · exact wf_remove a hm
  · rename_i hv
    exact wf_insert (wf_remove a hm) (fun e he => (mem_remove he).2) hv ha

/-- Consecutive writes into buffers keep the canonical form. -/
theorem wf_writeBytes (vs : List Byte) : ∀ {m : Memory} {a : Nat}, m.wf = true →
    (∀ b, a ≤ b → b < a + vs.length → (bufferAt b).isSome = true) → (m.writeBytes a vs).wf = true := by
  induction vs with
  | nil => intro m a hm _; exact hm
  | cons v vs ih =>
    intro m a hm hin
    refine ih (wf_write hm (hin a le_rfl (by simp))) fun b hb hlt => hin b (by omega) ?_
    simp only [List.length_cons] at *
    omega

/-- Two canonical memories that read the same everywhere are the same list. -/
theorem wf_ext {m m' : Memory} (hm : m.wf = true) (hm' : m'.wf = true) (h : ∀ a, m.read a = m'.read a) : m = m' := by
  have absent : ∀ {m : Memory} {a : Nat}, (∀ e ∈ m, a < e.1) → m.read a = unlistedByte := by
    intro m a hlt
    induction m with
    | nil => rfl
    | cons c m ih =>
      have hc : c.1 ≠ a := Nat.ne_of_gt (hlt c (by simp))
      simpa [Memory.read, hc] using ih fun e he => hlt e (by simp [he])
  induction m generalizing m' with
  | nil =>
    cases m' with
    | nil => rfl
    | cons c m' =>
      simp only [Memory.wf, Bool.and_eq_true, bne_iff_ne] at hm'
      exact absurd (by simpa [Memory.read] using (h c.1).symm) hm'.1.1.1
  | cons c m ih =>
    obtain ⟨b, x⟩ := c
    have hw := hm
    simp only [Memory.wf, Bool.and_eq_true, bne_iff_ne] at hm
    cases m' with
    | nil => exact absurd (by simpa [Memory.read] using h b) hm.1.1.1
    | cons c' m' =>
      obtain ⟨b', x'⟩ := c'
      have hw' := hm'
      simp only [Memory.wf, Bool.and_eq_true, bne_iff_ne] at hm'
      have hlow := above_of_mem hm.2 hm.1.2
      have hlow' := above_of_mem hm'.2 hm'.1.2
      have hbb : b = b' := by
        rcases lt_trichotomy b b' with hlt | heq | hgt
        · have h0 := h b
          rw [absent (m := (b', x') :: m') (a := b) fun e he => by
            rcases List.mem_cons.mp he with rfl | he
            · exact hlt
            · exact lt_trans hlt (hlow' e he)] at h0
          exact absurd (by simpa [Memory.read] using h0) hm.1.1.1
        · exact heq
        · have h0 := h b'
          rw [absent (m := (b, x) :: m) (a := b') fun e he => by
            rcases List.mem_cons.mp he with rfl | he
            · exact hgt
            · exact lt_trans hgt (hlow e he)] at h0
          exact absurd (by simpa [Memory.read] using h0.symm) hm'.1.1.1
      subst hbb
      have hx : x = x' := by simpa [Memory.read] using h b
      subst hx
      have htail : m = m' := by
        refine ih hm.2 hm'.2 fun a => ?_
        by_cases ha : b = a
        · subst ha
          rw [absent hlow, absent hlow']
        · simpa [Memory.read, ha] using h a
      rw [htail]

end Sys2Proof.Machine
end

