-- ==== Sys2Proof/Laws/State.lean ====
section
/-! SUPPORT. What each named update leaves of each field, and what it puts there. -/

namespace Sys2Proof.Machine

variable (s : State)

@[simp] theorem complete_cmd (e : Option CmdError) : (s.complete e).cmd = s.cmd := rfl
@[simp] theorem complete_status (e : Option CmdError) : (s.complete e).status = s.status.completed e := rfl
@[simp] theorem complete_mem (e : Option CmdError) : (s.complete e).mem = s.mem := rfl
@[simp] theorem complete_seq (e : Option CmdError) : (s.complete e).seq = idleSeq := rfl
@[simp] theorem complete_bk (e : Option CmdError) : (s.complete e).bk = s.bk := rfl
@[simp] theorem complete_cx (e : Option CmdError) : (s.complete e).cx = s.cx := rfl
@[simp] theorem complete_cfg (e : Option CmdError) : (s.complete e).cfg = s.cfg := rfl
@[simp] theorem complete_schedule (e : Option CmdError) : (s.complete e).schedule = s.schedule := rfl
@[simp] theorem complete_response (e : Option CmdError) : (s.complete e).response = s.response := rfl
@[simp] theorem complete_draws (e : Option CmdError) : (s.complete e).draws = s.draws := rfl

@[simp] theorem raise_cmd (e : CmdError) : (s.raise e).cmd = s.cmd := rfl
@[simp] theorem raise_status (e : CmdError) : (s.raise e).status = s.status.completed (some e) := rfl
@[simp] theorem raise_mem (e : CmdError) : (s.raise e).mem = s.mem := rfl
@[simp] theorem raise_seq (e : CmdError) : (s.raise e).seq = idleSeq := rfl
@[simp] theorem raise_bk (e : CmdError) : (s.raise e).bk = s.bk := rfl
@[simp] theorem raise_cx (e : CmdError) : (s.raise e).cx = s.cx := rfl
@[simp] theorem raise_cfg (e : CmdError) : (s.raise e).cfg = s.cfg := rfl
@[simp] theorem raise_schedule (e : CmdError) : (s.raise e).schedule = s.schedule := rfl
@[simp] theorem raise_response (e : CmdError) : (s.raise e).response = s.response := rfl
@[simp] theorem raise_draws (e : CmdError) : (s.raise e).draws = s.draws := rfl

@[simp] theorem accept_cmd (w : Word) : (s.accept w).cmd = w := rfl
@[simp] theorem accept_status (w : Word) : (s.accept w).status = acceptedStatus := rfl
@[simp] theorem accept_mem (w : Word) : (s.accept w).mem = s.mem := rfl
@[simp] theorem accept_seq (w : Word) : (s.accept w).seq = { busy := true, pending := some (takeLatch s.mem w) } := rfl
@[simp] theorem accept_bk (w : Word) : (s.accept w).bk = s.bk := rfl
@[simp] theorem accept_cx (w : Word) : (s.accept w).cx = s.cx := rfl
@[simp] theorem accept_cfg (w : Word) : (s.accept w).cfg = s.cfg := rfl
@[simp] theorem accept_schedule (w : Word) : (s.accept w).schedule = s.schedule := rfl
@[simp] theorem accept_response (w : Word) : (s.accept w).response = s.response := rfl
@[simp] theorem accept_draws (w : Word) : (s.accept w).draws = s.draws := rfl

@[simp] theorem popTurn_cmd : (s.popTurn).cmd = s.cmd := rfl
@[simp] theorem popTurn_status : (s.popTurn).status = s.status := rfl
@[simp] theorem popTurn_mem : (s.popTurn).mem = s.mem := rfl
@[simp] theorem popTurn_seq : (s.popTurn).seq = s.seq := rfl
@[simp] theorem popTurn_bk : (s.popTurn).bk = s.bk := rfl
@[simp] theorem popTurn_cx : (s.popTurn).cx = s.cx := rfl
@[simp] theorem popTurn_cfg : (s.popTurn).cfg = s.cfg := rfl
@[simp] theorem popTurn_schedule : (s.popTurn).schedule = s.schedule.tail := rfl
@[simp] theorem popTurn_response : (s.popTurn).response = s.response := rfl
@[simp] theorem popTurn_draws : (s.popTurn).draws = s.draws := rfl

@[simp] theorem putBlockOut_cmd (y : List Byte) : (s.putBlockOut y).cmd = s.cmd := rfl
@[simp] theorem putBlockOut_status (y : List Byte) : (s.putBlockOut y).status = s.status := rfl
@[simp] theorem putBlockOut_mem (y : List Byte) : (s.putBlockOut y).mem = s.mem.writeBytes 0x0B0 (y ++ List.replicate (16 - y.length) 0) := rfl
@[simp] theorem putBlockOut_seq (y : List Byte) : (s.putBlockOut y).seq = s.seq := rfl
@[simp] theorem putBlockOut_bk (y : List Byte) : (s.putBlockOut y).bk = s.bk := rfl
@[simp] theorem putBlockOut_cx (y : List Byte) : (s.putBlockOut y).cx = s.cx := rfl
@[simp] theorem putBlockOut_cfg (y : List Byte) : (s.putBlockOut y).cfg = s.cfg := rfl
@[simp] theorem putBlockOut_schedule (y : List Byte) : (s.putBlockOut y).schedule = s.schedule := rfl
@[simp] theorem putBlockOut_response (y : List Byte) : (s.putBlockOut y).response = s.response := rfl
@[simp] theorem putBlockOut_draws (y : List Byte) : (s.putBlockOut y).draws = s.draws := rfl

@[simp] theorem putDataOut_cmd (y : List Byte) : (s.putDataOut y).cmd = s.cmd := rfl
@[simp] theorem putDataOut_status (y : List Byte) : (s.putDataOut y).status = s.status := rfl
@[simp] theorem putDataOut_mem (y : List Byte) : (s.putDataOut y).mem = s.mem.writeBytes 0x200 y := rfl
@[simp] theorem putDataOut_seq (y : List Byte) : (s.putDataOut y).seq = s.seq := rfl
@[simp] theorem putDataOut_bk (y : List Byte) : (s.putDataOut y).bk = s.bk := rfl
@[simp] theorem putDataOut_cx (y : List Byte) : (s.putDataOut y).cx = s.cx := rfl
@[simp] theorem putDataOut_cfg (y : List Byte) : (s.putDataOut y).cfg = s.cfg := rfl
@[simp] theorem putDataOut_schedule (y : List Byte) : (s.putDataOut y).schedule = s.schedule := rfl
@[simp] theorem putDataOut_response (y : List Byte) : (s.putDataOut y).response = s.response := rfl
@[simp] theorem putDataOut_draws (y : List Byte) : (s.putDataOut y).draws = s.draws := rfl

@[simp] theorem platformReset_cmd : (s.platformReset).cmd = 0 := rfl
@[simp] theorem platformReset_status : (s.platformReset).status = zeroStatus := rfl
@[simp] theorem platformReset_mem : (s.platformReset).mem = [] := rfl
@[simp] theorem platformReset_seq : (s.platformReset).seq = idleSeq := rfl
@[simp] theorem platformReset_bk : (s.platformReset).bk = zeroSlot := rfl
@[simp] theorem platformReset_cx : (s.platformReset).cx = zeroContext s.cfg.lanes.count := rfl
@[simp] theorem platformReset_cfg : (s.platformReset).cfg = s.cfg := rfl
@[simp] theorem platformReset_schedule : (s.platformReset).schedule = s.schedule := rfl
@[simp] theorem platformReset_response : (s.platformReset).response = none := rfl
@[simp] theorem platformReset_draws : (s.platformReset).draws = s.draws := rfl

@[simp] theorem completed_busy (t : Status) (e : Option CmdError) : (t.completed e).busy = false := rfl
@[simp] theorem completed_done (t : Status) (e : Option CmdError) : (t.completed e).done = true := rfl
@[simp] theorem completed_ok (t : Status) (e : Option CmdError) : (t.completed e).ok = e.isNone := rfl
@[simp] theorem completed_overrun (t : Status) (e : Option CmdError) : (t.completed e).overrun = t.overrun := rfl
@[simp] theorem completed_err (t : Status) (e : Option CmdError) : (t.completed e).err = errorCode e := rfl

end Sys2Proof.Machine
end

