-- ==== Sys2Proof/Laws/Ops.lean ====
section
/-! SUPPORT. What each shared operation of the machine can do, said once. -/

namespace Sys2Proof.Machine

/-! ### Completion -/

/-- Completion with OK, in the statements' words. -/
theorem complete_none (s : State) : s.complete none = succeeded s := rfl

/-- Completion with an error, in the statements' words. -/
theorem raise_eq_failed (s : State) (e : CmdError) : s.raise e = failed s (errorCode (some e)) := rfl

/-- An error's code is one of 1..6. -/
theorem errorCode_range (e : CmdError) : 1 ≤ (errorCode (some e)).toNat ∧ (errorCode (some e)).toNat ≤ 6 := by
  cases e <;> decide

/-- No check fails just when each check's condition is false. -/
theorem firstError_eq_none {l : List (Bool × CmdError)} : firstError l = none ↔ ∀ p ∈ l, p.1 = false := by
  induction l with
  | nil => simp [firstError]
  | cons p l ih =>
    obtain ⟨b, e⟩ := p
    cases b <;> simp [firstError, ih]

/-- Everything a command can do: one of its checks fails and only the error is published, or none fails and its
updates are. It always answers a next state. -/
theorem command_cases {i : Instr} {checks : List (Bool × CmdError)} {u s t : State}
    (h : command i checks u s = .next t) :
    (∃ e, firstError ((!i.wellFormed, .illegal) :: checks) = some e ∧ t = s.raise e) ∨
      (i.wellFormed = true ∧ (∀ p ∈ checks, p.1 = false) ∧ t = u.complete none) := by
  unfold command at h
  split at h
  · rename_i e he
    exact .inl ⟨e, he, (Host.Outcome.next.inj h).symm⟩
  · rename_i hn
    have hall := firstError_eq_none.mp hn
    refine .inr ⟨by simpa using hall (!i.wellFormed, .illegal) (by simp), fun p hp => hall p (by simp [hp]), ?_⟩
    exact (Host.Outcome.next.inj h).symm

/-- A command whose word is legal and whose checks all pass publishes its updates. -/
theorem command_of_passed {i : Instr} {checks : List (Bool × CmdError)} {u s : State} (hi : i.wellFormed = true)
    (hc : ∀ p ∈ checks, p.1 = false) : command i checks u s = .next (succeeded u) := by
  have hn : firstError ((!i.wellFormed, CmdError.illegal) :: checks) = none :=
    firstError_eq_none.mpr fun p hp => by
      rcases List.mem_cons.mp hp with rfl | hp
      · simp [hi]
      · exact hc p hp
  simp only [command, hn]
  rfl

/-- A command whose word is legal and one of whose checks fails publishes the first failing check's error. -/
theorem command_of_failed {i : Instr} {checks : List (Bool × CmdError)} {u s : State} {e : CmdError}
    (hi : i.wellFormed = true) (hc : firstError checks = some e) :
    command i checks u s = .next (failed s (errorCode (some e))) := by
  have hn : firstError ((!i.wellFormed, CmdError.illegal) :: checks) = some e := by simp [hi, firstError, hc]
  simp only [command, hn]
  rfl

/-- A command whose word is not legal publishes ILLEGAL. -/
theorem command_of_illegal {i : Instr} {checks : List (Bool × CmdError)} {u s : State}
    (hi : i.wellFormed = false) : command i checks u s = .next (failed s 1) := by
  have hn : firstError ((!i.wellFormed, CmdError.illegal) :: checks) = some .illegal := by simp [hi, firstError]
  simp only [command, hn]
  rfl

/-! ### Bus accesses -/

/-- Everything a host access can do. -/
theorem busAccess_cases (s : State) (a : Access) :
    (∃ why, accessFault a = some why ∧ s.cfg.busErrorStops = true ∧ s.busAccess a = .fault why) ∨
      (∃ why, accessFault a = some why ∧ s.cfg.busErrorStops = false ∧
        s.busAccess a = .next { s with response := some (.busError why) }) ∨
      (accessFault a = none ∧ s.busAccess a = .next (s.performAccess a)) := by
  unfold State.busAccess
  cases hf : accessFault a with
  | none => exact .inr (.inr ⟨rfl, rfl⟩)
  | some why =>
    cases hc : s.cfg.busErrorStops with
    | true => exact .inl ⟨why, rfl, rfl, rfl⟩
    | false => exact .inr (.inl ⟨why, rfl, rfl, rfl⟩)

/-! ### Steps -/

/-- Everything a step can do: a host access, the core's turn with nothing pending, a command run, an ILLEGAL word, or
a reset. -/
theorem step_cases (s : State) :
    (∃ a, s.turn = .access a ∧ step s = s.popTurn.busAccess a) ∨
      (s.turn = .core ∧ s.seq.pending = none ∧ step s = .next s.popTurn) ∨
      (∃ l i, s.turn = .core ∧ s.seq.pending = some l ∧ decode l.word = .ok i ∧ step s = exec i s.popTurn) ∨
      (∃ l why, s.turn = .core ∧ s.seq.pending = some l ∧ decode l.word = .error why ∧
        step s = .next (s.popTurn.raise .illegal)) ∨
      (s.turn = .reset ∧ step s = .next s.popTurn.platformReset) := by
  cases ht : s.turn with
  | access a => exact .inl ⟨a, rfl, by simp [step, ht]⟩
  | reset => exact .inr (.inr (.inr (.inr ⟨rfl, by simp [step, ht]⟩)))
  | core =>
    cases hp : s.seq.pending with
    | none => exact .inr (.inl ⟨rfl, rfl, by simp [step, ht, State.coreTurn, State.fetch, hp]⟩)
    | some l =>
      cases hd : decode l.word with
      | ok i => exact .inr (.inr (.inl ⟨l, i, rfl, rfl, hd, by simp [step, ht, State.coreTurn, State.fetch, hp, hd]⟩))
      | error why =>
        exact .inr (.inr (.inr (.inl ⟨l, why, rfl, rfl, hd, by
          simp [step, ht, State.coreTurn, State.fetch, hp, hd]⟩)))

end Sys2Proof.Machine
end

