-- ==== Sys2Proof/Laws/Exec.lean ====
section
/-! SUPPORT. What every command has in common, where the bytes of the window lie, and what the outputs and operands
hold. -/

namespace Sys2Proof.Machine

/-! ### Commands -/

/-- Every command is some checks and some updates, and its updates leave STATUS, CMD and the model's own fields. -/
theorem exec_eq_command (i : Instr) (s : State) :
    ∃ checks updated, exec i s = command i checks updated s ∧ updated.status = s.status ∧ updated.cmd = s.cmd ∧
      updated.cfg = s.cfg ∧ updated.schedule = s.schedule ∧ updated.response = s.response ∧
      updated.draws = s.draws := by
  cases i
  all_goals
    apply Exists.intro
    apply Exists.intro
    constructor
    · simp only [exec, execSetKey, execSetTweakedKey, execSetTweak, execSwapModes, execClearKey, execEncryptBlock,
        execDecryptBlock, execCryptTweaked, execCtrInit, execCtrSetKey, execCtrSetTweakedKey, execCtrSetTweak,
        execCtrSetCounter, execCtrEncrypt, execCtrCleanup, execPrimSbox, execPrimInvSbox, execPrimShiftRows,
        execPrimInvShiftRows, execPrimMixColumns, execPrimInvMixColumns, execPrimTweakPerm, execPrimInvTweakPerm,
        execPrimLfsr2, execPrimLfsr3, primCommand]
      rfl
    · exact ⟨rfl, rfl, rfl, rfl, rfl, rfl⟩

/-- A command publishes its error alone, or its updates when the word is legal and every check passes. -/
theorem command_next (i : Instr) (checks : List (Bool × CmdError)) (updated s : State) :
    (∃ e, command i checks updated s = .next (s.raise e)) ∨
      (command i checks updated s = .next (updated.complete none) ∧ i.wellFormed = true ∧
        ∀ p ∈ checks, p.1 = false) := by
  unfold command
  split
  · exact .inl ⟨_, rfl⟩
  · rename_i h
    have hall := firstError_eq_none.mp h
    exact .inr ⟨rfl, by simpa using hall (!i.wellFormed, .illegal) (by simp), fun p hp => hall p (by simp [hp])⟩

/-! ### The map of the window -/

/-- The buffers and the gaps between them (20_memory.md R61). -/
theorem bufferAt_cases (a : Nat) :
    (0x040 ≤ a ∧ a < 0x070 ∧ bufferAt a = some .key) ∨ (0x080 ≤ a ∧ a < 0x090 ∧ bufferAt a = some .tweak) ∨
    (0x090 ≤ a ∧ a < 0x0A0 ∧ bufferAt a = some .counter) ∨ (0x0A0 ≤ a ∧ a < 0x0B0 ∧ bufferAt a = some .blockIn) ∨
    (0x0B0 ≤ a ∧ a < 0x0C0 ∧ bufferAt a = some .blockOut) ∨ (0x100 ≤ a ∧ a < 0x200 ∧ bufferAt a = some .dataIn) ∨
    (0x200 ≤ a ∧ a < 0x300 ∧ bufferAt a = some .dataOut) ∨
    ((a < 0x40 ∨ (0x070 ≤ a ∧ a < 0x080) ∨ (0x0C0 ≤ a ∧ a < 0x100) ∨ 0x300 ≤ a) ∧ bufferAt a = none) := by
  unfold bufferAt
  split_ifs <;> simp <;> omega

/-- The registers, and the buffers past them (20_memory.md R61). -/
theorem regionAt_cases (a : Nat) :
    (a < 4 ∧ regionAt a = .id) ∨ (4 ≤ a ∧ a < 8 ∧ regionAt a = .cmd) ∨ (8 ≤ a ∧ a < 12 ∧ regionAt a = .status) ∨
    (12 ≤ a ∧ a < 16 ∧ regionAt a = .keyinfo) ∨ (16 ≤ a ∧ a < 20 ∧ regionAt a = .ctrinfo) ∨
    (20 ≤ a ∧ a < 24 ∧ regionAt a = .caps) ∨
    (24 ≤ a ∧ regionAt a = (match bufferAt a with | some b => .buffer b | none => .reserved)) := by
  unfold regionAt
  split_ifs with h1 h2 h3 h4 h5 h6
  · exact .inl ⟨h1, rfl⟩
  · exact .inr (.inl ⟨by omega, h2, rfl⟩)
  · exact .inr (.inr (.inl ⟨by omega, h3, rfl⟩))
  · exact .inr (.inr (.inr (.inl ⟨by omega, h4, rfl⟩)))
  · exact .inr (.inr (.inr (.inr (.inl ⟨by omega, h5, rfl⟩))))
  · exact .inr (.inr (.inr (.inr (.inr (.inl ⟨by omega, h6, rfl⟩)))))
  · exact .inr (.inr (.inr (.inr (.inr (.inr ⟨by omega, rfl⟩)))))

/-! ### Operands and outputs -/

/-- A Latch taken at acceptance has its buffers' sizes. -/
theorem takeLatch_sized (m : Memory) (w : Word) : (takeLatch m w).Sized := by
  constructor <;> simp [takeLatch, bufferBytes, Buffer.size, streamBytes]

/-- Byte `k` of a stored word (20_memory.md R65). -/
theorem wordBytes_getD (v : Word) (k : Nat) (hk : k < 4) : (wordBytes v).getD k 0 = v.extractLsb' (8 * k) 8 := by
  interval_cases k <;> rfl

/-- Byte `k` of a read word (20_memory.md R65). -/
theorem readWord_byte (m : Memory) (a k : Nat) (hk : k < 4) :
    (m.readWord a).extractLsb' (8 * k) 8 = m.read (a + k) := by
  unfold Memory.readWord
  interval_cases k <;> ext i hi <;> rw [BitVec.getElem_extractLsb'] <;> simp only [BitVec.getLsbD_append] <;>
    interval_cases i <;> simp

/-- The bytes of BLOCK_OUT after a published block. -/
theorem read_putBlockOut (s : State) (y : List Byte) (hy : y.length ≤ 16) (i : Nat) (hi : i < 16) :
    (s.putBlockOut y).mem.read (0x0B0 + i) = y.getD i 0 := by
  rw [putBlockOut_mem, read_writeBytes, if_pos ⟨by omega, by simp; omega⟩, Nat.add_sub_cancel_left]
  simp only [List.getD_eq_getElem?_getD, List.getElem?_append]
  split
  · rfl
  · rename_i h
    rw [List.getElem?_replicate, List.getElem?_eq_none (by omega)]
    split <;> rfl

/-- Every byte outside BLOCK_OUT after a published block. -/
theorem read_putBlockOut_other (s : State) (y : List Byte) (hy : y.length ≤ 16) (a : Nat)
    (ha : a < 0x0B0 ∨ 0x0C0 ≤ a) : (s.putBlockOut y).mem.read a = s.mem.read a := by
  rw [putBlockOut_mem, read_writeBytes, if_neg (by simp; omega)]

/-- The stream's output is as long as its input. -/
theorem length_ctrStream (k : Nat) (xs : List Byte) : ∀ cx, (ctrStream k cx xs).1.length = xs.length := by
  induction xs with
  | nil => intro cx; rfl
  | cons x xs ih => intro cx; simp [ctrStream, ih]

end Sys2Proof.Machine
end

