-- ==== Sys2Proof/Laws/PerInstr.lean ====
section
/-! SUPPORT. Statements about every command, one lemma per constructor. -/

namespace Sys2Proof.Laws

/-- The encoder leaves the reserved bits 0 and puts a legal CIPHER and a mapped OP (30_encoding.md R91, R98, R99). -/
def FieldPlacement.Statement (i : Instr) : Prop :=
  rsvField (encode i) = 0 ∧ (cipherOf (cipherField (encode i))).isSome = true ∧
    (opRow (opField (encode i))).isSome = true

theorem fieldPlacement_packWord (op : Word) (c : Cipher) (n : Bool) (l : BitVec 9) (r : BitVec 4) (m : Bool)
    (hop : op.toNat < 32) (hrow : (opRow (op.setWidth 5)).isSome = true) :
    rsvField (packWord op c n l r m) = 0 ∧ (cipherOf (cipherField (packWord op c n l r m))).isSome = true ∧
      (opRow (opField (packWord op c n l r m))).isSome = true := by
  rw [rsvField_packWord _ _ _ _ _ _ hop, cipherField_packWord _ _ _ _ _ _ hop, cipherOf_code,
    opField_packWord]
  exact ⟨rfl, rfl, hrow⟩

theorem FieldPlacement.setKey (c : Cipher) (n : Bool) (l : BitVec 9) (r : BitVec 4) (m : Bool) : FieldPlacement.Statement (.setKey c n l r m) :=
  fieldPlacement_packWord _ _ _ _ _ _ (by decide) rfl

theorem FieldPlacement.setTweakedKey (c : Cipher) (n : Bool) (l : BitVec 9) : FieldPlacement.Statement (.setTweakedKey c n l) :=
  fieldPlacement_packWord _ _ _ _ _ _ (by decide) rfl

theorem FieldPlacement.setTweak (c : Cipher) (n : Bool) (l : BitVec 9) : FieldPlacement.Statement (.setTweak c n l) :=
  fieldPlacement_packWord _ _ _ _ _ _ (by decide) rfl

theorem FieldPlacement.swapModes (c : Cipher) : FieldPlacement.Statement (.swapModes c) :=
  fieldPlacement_packWord _ _ _ _ _ _ (by decide) rfl

theorem FieldPlacement.clearKey (c : Cipher) : FieldPlacement.Statement (.clearKey c) :=
  fieldPlacement_packWord _ _ _ _ _ _ (by decide) rfl

theorem FieldPlacement.encryptBlock (c : Cipher) : FieldPlacement.Statement (.encryptBlock c) :=
  fieldPlacement_packWord _ _ _ _ _ _ (by decide) rfl

theorem FieldPlacement.decryptBlock (c : Cipher) : FieldPlacement.Statement (.decryptBlock c) :=
  fieldPlacement_packWord _ _ _ _ _ _ (by decide) rfl

theorem FieldPlacement.cryptTweaked (c : Cipher) : FieldPlacement.Statement (.cryptTweaked c) :=
  fieldPlacement_packWord _ _ _ _ _ _ (by decide) rfl

theorem FieldPlacement.ctrInit (c : Cipher) : FieldPlacement.Statement (.ctrInit c) :=
  fieldPlacement_packWord _ _ _ _ _ _ (by decide) rfl

theorem FieldPlacement.ctrSetKey (c : Cipher) (n : Bool) (l : BitVec 9) (r : BitVec 4) : FieldPlacement.Statement (.ctrSetKey c n l r) :=
  fieldPlacement_packWord _ _ _ _ _ _ (by decide) rfl

theorem FieldPlacement.ctrSetTweakedKey (c : Cipher) (n : Bool) (l : BitVec 9) : FieldPlacement.Statement (.ctrSetTweakedKey c n l) :=
  fieldPlacement_packWord _ _ _ _ _ _ (by decide) rfl

theorem FieldPlacement.ctrSetTweak (c : Cipher) (n : Bool) (l : BitVec 9) : FieldPlacement.Statement (.ctrSetTweak c n l) :=
  fieldPlacement_packWord _ _ _ _ _ _ (by decide) rfl

theorem FieldPlacement.ctrSetCounter (c : Cipher) (n : Bool) (l : BitVec 9) : FieldPlacement.Statement (.ctrSetCounter c n l) :=
  fieldPlacement_packWord _ _ _ _ _ _ (by decide) rfl

theorem FieldPlacement.ctrEncrypt (c : Cipher) (n : Bool) (l : BitVec 9) : FieldPlacement.Statement (.ctrEncrypt c n l) :=
  fieldPlacement_packWord _ _ _ _ _ _ (by decide) rfl

theorem FieldPlacement.ctrCleanup (c : Cipher) : FieldPlacement.Statement (.ctrCleanup c) :=
  fieldPlacement_packWord _ _ _ _ _ _ (by decide) rfl

theorem FieldPlacement.primSbox (c : Cipher) : FieldPlacement.Statement (.primSbox c) :=
  fieldPlacement_packWord _ _ _ _ _ _ (by decide) rfl

theorem FieldPlacement.primInvSbox (c : Cipher) : FieldPlacement.Statement (.primInvSbox c) :=
  fieldPlacement_packWord _ _ _ _ _ _ (by decide) rfl

theorem FieldPlacement.primShiftRows (c : Cipher) : FieldPlacement.Statement (.primShiftRows c) :=
  fieldPlacement_packWord _ _ _ _ _ _ (by decide) rfl

theorem FieldPlacement.primInvShiftRows (c : Cipher) : FieldPlacement.Statement (.primInvShiftRows c) :=
  fieldPlacement_packWord _ _ _ _ _ _ (by decide) rfl

theorem FieldPlacement.primMixColumns (c : Cipher) : FieldPlacement.Statement (.primMixColumns c) :=
  fieldPlacement_packWord _ _ _ _ _ _ (by decide) rfl

theorem FieldPlacement.primInvMixColumns (c : Cipher) : FieldPlacement.Statement (.primInvMixColumns c) :=
  fieldPlacement_packWord _ _ _ _ _ _ (by decide) rfl

theorem FieldPlacement.primTweakPerm (c : Cipher) : FieldPlacement.Statement (.primTweakPerm c) :=
  fieldPlacement_packWord _ _ _ _ _ _ (by decide) rfl

theorem FieldPlacement.primInvTweakPerm (c : Cipher) : FieldPlacement.Statement (.primInvTweakPerm c) :=
  fieldPlacement_packWord _ _ _ _ _ _ (by decide) rfl

theorem FieldPlacement.primLfsr2 (c : Cipher) : FieldPlacement.Statement (.primLfsr2 c) :=
  fieldPlacement_packWord _ _ _ _ _ _ (by decide) rfl

theorem FieldPlacement.primLfsr3 (c : Cipher) : FieldPlacement.Statement (.primLfsr3 c) :=
  fieldPlacement_packWord _ _ _ _ _ _ (by decide) rfl

end Sys2Proof.Laws
end

