-- ==== Sys2Proof/Laws/Serial.lean ====
section
/-! SUPPORT. The cells of serialized blocks in both directions, the nibbles of a XOR, and the tweak through the Mantis
rounds. -/

namespace Sys2Proof.Machine

/-! ### Blocks and cells (20_memory.md R68) -/

theorem toNat_cellAt_cells4 (b : List Byte) {c : Cipher} (hc : c ≠ .s128) {n : Nat} (h : n < 16) :
    (cellAt (cells4 b) n).toNat = serialCell c b n := by
  rw [cells4, cellAt_cellsOf _ _ h]
  cases c <;> simp only [serialCell] at * <;> try contradiction
  all_goals split <;> simp [BitVec.extractLsb'_toNat, Nat.shiftRight_eq_div_pow]
  all_goals omega

theorem toNat_cellAt_cells8 (b : List Byte) {n : Nat} (h : n < 16) :
    (cellAt (cells8 b) n).toNat = serialCell .s128 b n := by
  rw [cells8, cellAt_cellsOf _ _ h]; rfl

/-- The nibbles of a byte put together from two. -/
theorem nibbles_of_append (a b : BitVec 4) : (a ++ b).toNat / 16 = a.toNat ∧ (a ++ b).toNat % 16 = b.toNat := by
  rw [BitVec.toNat_append, ← Nat.shiftLeft_add_eq_or_of_lt b.isLt, Nat.shiftLeft_eq]
  omega

theorem serialCell_bytes4 (x : Cells 4) {c : Cipher} (hc : c ≠ .s128) {n : Nat} (h : n < 16) :
    serialCell c (bytes4 x) n = (cellAt x n).toNat := by
  cases c <;> try contradiction
  all_goals
    interval_cases n <;> first
      | exact (nibbles_of_append _ _).1
      | exact (nibbles_of_append _ _).2

theorem serialCell_bytes8 (x : Cells 8) (n : Nat) : serialCell .s128 (bytes8 x) n = (cellAt x n).toNat := rfl

/-! ### Mantis words and tweaks (42_block_crypt.md R225-R229) -/

theorem nibbles_xor (a b : BitVec 64) : nibbles (a ^^^ b) = xorCells (nibbles a) (nibbles b) := by
  apply cells_ext
  intro i hi
  simp only [nibbles, xorCells, cellAt_cellsOf _ _ hi]
  ext j hj
  simp

theorem mantisForward_tweak (k : BitVec 64) (n : Nat) (m : MantisState) :
    (mantisForward k n m).t = tweakH^[n] m.t := by
  induction n with
  | zero => rfl
  | succ n ih => rw [Function.iterate_succ_apply', ← ih]; rfl

theorem mantisReverse_tweak (k : BitVec 64) (n : Nat) (m : MantisState) :
    (mantisReverse k n m).t = tweakHInv^[n] m.t := by
  induction n generalizing m with
  | zero => rfl
  | succ n ih => rw [mantisReverse, ih, Function.iterate_succ_apply]; rfl

end Sys2Proof.Machine
end

