-- ==== Sys2Proof/Tests/Slice0.lean ====
section
/-! SUPPORT. Tests of the model: ill-formed commands, words written out from 30_encoding.md, vectors of
95_test_vectors.md, and for every statement with hypotheses a state and operands that meet them. -/

open Sys2Proof Sys2Proof.Machine

namespace Sys2Proof.Tests

-- One kernel evaluation at a time.
set_option Elab.async false

/-! ### WellFormed: an ill-formed term for each check (30_encoding.md R100, R101) -/

theorem test_wf_setKey_skinny_rounds : Instr.wellFormed (.setKey .s64 false 8 7 false) = false := by decide
theorem test_wf_setKey_skinny_mode : Instr.wellFormed (.setKey .s128 false 16 0 true) = false := by decide
theorem test_wf_setTweakedKey_mantis : Instr.wellFormed (.setTweakedKey .mantis false 16) = false := by decide
theorem test_wf_swapModes_skinny : Instr.wellFormed (.swapModes .s64) = false := by decide
theorem test_wf_decryptBlock_mantis : Instr.wellFormed (.decryptBlock .mantis) = false := by decide
theorem test_wf_cryptTweaked_skinny : Instr.wellFormed (.cryptTweaked .s64) = false := by decide
theorem test_wf_ctrSetKey_skinny_rounds : Instr.wellFormed (.ctrSetKey .s64 false 8 5) = false := by decide
theorem test_wf_ctrSetTweakedKey_mantis : Instr.wellFormed (.ctrSetTweakedKey .mantis false 8) = false := by decide
theorem test_wf_primLfsr2_mantis : Instr.wellFormed (.primLfsr2 .mantis) = false := by decide
theorem test_wf_primLfsr3_mantis : Instr.wellFormed (.primLfsr3 .mantis) = false := by decide
theorem test_wf_setKey_mantis : Instr.wellFormed (.setKey .mantis true 511 15 true) = true := by decide

/-! ### Decoding: words written out from 30_encoding.md R91 and R99

A word bit by bit reads RSV 31:22, MODE 21, ROUNDS 20:17, LEN 16:8, NULLP 7, CIPHER 6:5, OP 4:0. -/

-- SET_KEY.MANTIS null len=257 rounds=9 mode=dec.
theorem test_decode_setKey :
    decode 0b0000000000_1_1001_100000001_1_10_00001 = .ok (.setKey .mantis true 257 9 true) := by decide
-- SET_TWEAKED_KEY.S128 len=32.
theorem test_decode_setTweakedKey :
    decode 0b0000000000_0_0000_000100000_0_01_00010 = .ok (.setTweakedKey .s128 false 32) := by decide
-- SET_TWEAK.S128 null.
theorem test_decode_setTweak :
    decode 0b0000000000_0_0000_000000000_1_01_00011 = .ok (.setTweak .s128 true 0) := by decide
theorem test_decode_swapModes : decode 0x00000044 = .ok (.swapModes .mantis) := by decide
theorem test_decode_clearKey : decode 0x00000025 = .ok (.clearKey .s128) := by decide
-- ENCRYPT_BLOCK.MANTIS.
theorem test_decode_encryptBlock :
    decode 0b0000000000_0_0000_000000000_0_10_00110 = .ok (.encryptBlock .mantis) := by decide
theorem test_decode_decryptBlock : decode 0x00000027 = .ok (.decryptBlock .s128) := by decide
theorem test_decode_cryptTweaked : decode 0x00000048 = .ok (.cryptTweaked .mantis) := by decide
theorem test_decode_ctrInit : decode 0x00000009 = .ok (.ctrInit .s64) := by decide
-- CTR_SET_KEY.MANTIS len=16 rounds=7.
theorem test_decode_ctrSetKey :
    decode 0b0000000000_0_0111_000010000_0_10_01010 = .ok (.ctrSetKey .mantis false 16 7) := by decide
theorem test_decode_ctrSetTweakedKey : decode 0x0000102B = .ok (.ctrSetTweakedKey .s128 false 16) := by decide
theorem test_decode_ctrSetTweak : decode 0x0000084C = .ok (.ctrSetTweak .mantis false 8) := by decide
theorem test_decode_ctrSetCounter : decode 0x0000020D = .ok (.ctrSetCounter .s64 false 2) := by decide
theorem test_decode_ctrEncrypt : decode 0x0000282E = .ok (.ctrEncrypt .s128 false 40) := by decide
theorem test_decode_ctrCleanup : decode 0x0000002F = .ok (.ctrCleanup .s128) := by decide
-- PRIM_SBOX.S128.
theorem test_decode_primSbox :
    decode 0b0000000000_0_0000_000000000_0_01_10000 = .ok (.primSbox .s128) := by decide
theorem test_decode_primInvSbox : decode 0x00000051 = .ok (.primInvSbox .mantis) := by decide
theorem test_decode_primShiftRows : decode 0x00000052 = .ok (.primShiftRows .mantis) := by decide
theorem test_decode_primInvShiftRows : decode 0x00000033 = .ok (.primInvShiftRows .s128) := by decide
theorem test_decode_primMixColumns : decode 0x00000014 = .ok (.primMixColumns .s64) := by decide
theorem test_decode_primInvMixColumns : decode 0x00000035 = .ok (.primInvMixColumns .s128) := by decide
theorem test_decode_primTweakPerm : decode 0x00000056 = .ok (.primTweakPerm .mantis) := by decide
theorem test_decode_primInvTweakPerm : decode 0x00000017 = .ok (.primInvTweakPerm .s64) := by decide
theorem test_decode_primLfsr2 : decode 0x00000038 = .ok (.primLfsr2 .s128) := by decide
theorem test_decode_primLfsr3 : decode 0x00000019 = .ok (.primLfsr3 .s64) := by decide

-- The illegal words of 95_test_vectors.md 3.5, with the check that fails.
theorem test_decode_reserved_opcodes : decode 0x00000000 = .error .reservedOpcode ∧
    decode 0x0000001A = .error .reservedOpcode ∧ decode 0x0000001F = .error .reservedOpcode := by decide
theorem test_decode_cipher_three :
    decode 0x00000066 = .error .cipherThree ∧ decode 0x00000062 = .error .cipherThree := by decide
theorem test_decode_reserved_bits :
    decode 0x00400006 = .error .reservedBits ∧ decode 0x80000001 = .error .reservedBits := by decide
theorem test_decode_unused_fields : decode 0x00000086 = .error .nullpUnused ∧ decode 0x00000106 = .error .lenUnused ∧
    decode 0x00020006 = .error .roundsUnused ∧ decode 0x00200006 = .error .modeUnused ∧
    decode 0x000E0801 = .error .roundsUnused ∧ decode 0x00000085 = .error .nullpUnused ∧
    decode 0x00000109 = .error .lenUnused ∧ decode 0x002E104A = .error .modeUnused := by decide
theorem test_decode_cipher_not_legal : decode 0x00000047 = .error .cipherNotLegal ∧
    decode 0x00000004 = .error .cipherNotLegal ∧ decode 0x00000008 = .error .cipherNotLegal ∧
    decode 0x00000058 = .error .cipherNotLegal ∧ decode 0x00000059 = .error .cipherNotLegal ∧
    decode 0x0000084B = .error .cipherNotLegal := by decide

/-! ### Small states -/

/-- Buffers that hold the given bytes from their first byte on. -/
def inputs (key tweak counter blockIn dataIn : List Byte) : Memory :=
  ((((Memory.writeBytes [] 0x040 key).writeBytes 0x080 tweak).writeBytes 0x090 counter).writeBytes 0x0A0 blockIn).writeBytes
    0x100 dataIn

/-- The key of vector E1. -/
def keyE1 : List Byte := beBytes 8 0xf5269826fc681238

/-- The key of vectors GK5 to GK8. -/
def keyGK : List Byte := beBytes 16 0x92f09952c625e3e9d7a060f714c0292b

/-- The tweak of vectors GK5 to GK8. -/
def tweakGK : List Byte := beBytes 8 0xba912e6f1055fed2

/-- A state with the E1 key in the block key slot. -/
def keyed (m : Memory) : State := { State.reset with mem := m, bk := loadSkinny .s64 1 keyE1 }

/-- A state with a Skinny-128 key of `z` words in the block key slot. -/
def keyed128 (z key : Nat) (m : Memory) : State :=
  { State.reset with mem := m, bk := loadSkinny .s128 z (beBytes (16 * z) key) }

/-- A state with the E1 key as a tweaked key in the block key slot. -/
def tweaked (m : Memory) : State := { State.reset with mem := m, bk := loadSkinnyTweaked .s64 1 keyE1 }

/-- A state with the Mantis key of GK7 and its tweak in the block key slot. -/
def mantisKeyed (m : Memory) : State :=
  { State.reset with mem := m, bk := { loadMantis keyGK 7 false with tweak := 0xba912e6f1055fed2 } }

/-- A Skinny-64 context keyed with `slot`, with counter `c` and no keystream, on K = 1. -/
def context (slot : KeySlot) (c : Nat) : CtrContext := { initContext 1 slot.cipher with ks := slot, c := c }

/-- A state with a Skinny-64 context under the E1 key and counter `c`. -/
def streaming (m : Memory) (c : Nat) : State :=
  { State.reset with mem := m, cx := context (loadSkinny .s64 1 keyE1) c }

/-- The state after the command of a word, accepted and then completed. -/
def run (s : State) (w : Word) : State :=
  match step (s.accept w) with
  | .next t => t
  | .fault _ => s
  | .refused _ => s

/-- The low `n` bytes of BLOCK_OUT as one big-endian number. -/
def blockOut (n : Nat) (s : State) : Nat := beNat ((bufferBytes s.mem .blockOut).take n)

/-- The low `n` bytes of DATA_OUT as one big-endian number. -/
def dataOut (n : Nat) (s : State) : Nat := beNat ((bufferBytes s.mem .dataOut).take n)

/-- BLOCK_OUT, all 16 bytes, after a PRIM command of word `w` on a block. -/
def prim (w : Word) (blockIn : List Byte) : Nat :=
  blockOut 16 (run { State.reset with mem := inputs [] [] [] blockIn [] } w)

/-! ### Vectors of 95_test_vectors.md -/

-- 3.2: SET_KEY.S64 len=8 gives KEYINFO 0x601; SET_KEY.MANTIS len=16 rounds=7 mode=dec gives 0x107D and its key words.
theorem test_setKey : keyInfoWord (run { State.reset with mem := inputs keyE1 [] [] [] [] } 0x00000801).bk = 0x601 := by
  decide +kernel
theorem test_setKey_mantis :
    (let bk := (run { State.reset with mem := inputs keyGK [] [] [] [] } 0x002E1041).bk
     keyInfoWord bk = 0x107D ∧ bk.k0 = 0xc9784ca96312f1f5 ∧ bk.k0p = 0x92f09952c625e3e9 ∧
       bk.k1 = 0xf39f0a7f916321f8) := by decide +kernel
-- 3.2: SET_TWEAKED_KEY.S64 len=16 gives KEYINFO 0xE89; TW-1 under len=8.
theorem test_setTweakedKey : keyInfoWord (run State.reset 0x00001002).bk = 0xE89 := by decide +kernel
theorem test_tweaked_domain : blockOut 8 (run (tweaked (inputs [] [] [] (beBytes 8 0x06034f957724d19d) [])) 0x00000006)
    = 0x7420ba834fd26e13 := by decide +kernel
-- CT-4: SET_TWEAK.S64 len=2 with abcd is the tweak abcd000000000000. 3.5: null sets a zero tweak.
theorem test_setTweak_pads_right :
    (run (tweaked (inputs [] (beBytes 8 0xabcd123456789abc) [] [] [])) 0x00000203).bk.tk.t0
      = ⟨0xa, 0xb, 0xc, 0xd, 0, 0, 0, 0, 0, 0, 0, 0, 0, 0, 0, 0⟩ := by decide +kernel
-- 3.2: after SWAP_MODES; 3.3: KEYINFO 0x107D.
theorem test_swapModes :
    (let bk := (run (mantisKeyed []) 0x00000044).bk
     keyInfoWord bk = 0x107D ∧ bk.k0 = 0xc9784ca96312f1f5 ∧ bk.k1 = 0xf39f0a7f916321f8) := by decide +kernel
theorem test_clearKey : (run (mantisKeyed []) 0x00000005).bk = zeroSlot := by decide +kernel
-- E1 and E2, and GK7.
theorem test_encryptBlock_e1_e2 :
    blockOut 16 (run (keyed (inputs [] [] [] (beBytes 8 0x06034f957724d19d) [])) 0x00000006)
      = 0xbb39dfb2429b8ac70000000000000000 ∧
    blockOut 16 (run (keyed128 1 0x4f55cfb0520cac52fd92c15f37073e93
        (inputs [] [] [] (beBytes 16 0xf20adb0eb08b648a3b2eeed1f0adda14) [])) 0x00000026)
      = 0x22ff30d498ea62d7e45b476e33675b74 := by decide +kernel
theorem test_encryptBlock_gk7 :
    blockOut 8 (run (mantisKeyed (inputs [] [] [] (beBytes 8 0x60e43457311936fd) [])) 0x00000046)
      = 0x308e8a07f168f517 := by decide +kernel
-- B-3.
theorem test_decryptBlock :
    blockOut 8 (run (keyed (inputs [] [] [] (beBytes 8 0xffffffffffffffff) [])) 0x00000007)
      = 0x868995e914de9435 := by decide +kernel
-- GK4 read backwards: three tweakey words of 8-bit cells.
theorem test_decryptBlock_gk4 :
    blockOut 16 (run (keyed128 3
        0xdf889548cfc7ea52d296339301797449ab588a34a47f1ab2dfe9c8293fbea9a5ab1afac2611012cd8cef952618c3ebe8
        (inputs [] [] [] (beBytes 16 0x94ecf589e2017c601b38c6346a10dcfa) [])) 0x00000027)
      = 0xa3994b66ad85a3459f44e92b08f550cb := by decide +kernel
-- 3.3: CRYPT_TWEAKED.MANTIS with a zero tweak, rounds 7, whatever T is.
theorem test_cryptTweaked :
    (let t := run (mantisKeyed (inputs [] [] [] (beBytes 8 0x60e43457311936fd) [])) 0x00000048
     blockOut 8 t = 0x22a28e5d7dc1a6a2 ∧ t.bk.tweak = 0xba912e6f1055fed2) := by decide +kernel
-- CTR-1, CTR-2, CTR-9.
theorem test_ctrInit : ctrInfoWord (run State.reset 0x00000009).cx = 0x00080001 := by decide +kernel
theorem test_ctrSetKey :
    ctrInfoWord (run { State.reset with mem := inputs keyE1 [] [] [] [], cx := initContext 1 .s64 } 0x0000080A).cx
      = 0x00082009 := by decide +kernel
theorem test_ctrSetKey_mantis :
    ctrInfoWord (run { State.reset with mem := inputs keyGK [] [] [] [], cx := initContext 1 .mantis } 0x000E104A).cx
      = 0x0008071D := by decide +kernel
-- R25 and R174: a tweaked Skinny-64 key of one word has 36 rounds.
theorem test_ctrSetTweakedKey :
    ctrInfoWord (run { State.reset with cx := initContext 1 .s64 } 0x0000080B).cx = 0x00082419 := by decide +kernel
-- CTR-E10, and R268: the keystream is discarded.
theorem test_ctrSetTweak_notweak : (run (streaming [] 0) 0x0000080C).status.word = 0x52 := by decide +kernel
theorem test_ctrSetTweak :
    (let s : State := { State.reset with
        mem := inputs [] tweakGK [] [] [], cx := { context (loadMantis keyGK 7 false) 2 with offset := 3 } }
     let cx := (run s 0x0000084C).cx
     cx.ks.tweak = 0xba912e6f1055fed2 ∧ cx.offset = 8 ∧ cx.c = 2) := by decide +kernel
-- CTR-4: the counter is padded on the left. CTR-E5.
theorem test_ctrSetCounter : (run (streaming (inputs [] [] [1, 2] [] []) 0) 0x0000020D).cx.c = 0x0102 := by decide +kernel
theorem test_ctrSetCounter_param : (run (streaming [] 0) 0x0000090D).status.word = 0x62 := by decide +kernel
-- CTR-3 and CTR-7: the stream of a fresh counter, and the wrap of the counter.
theorem test_ctrEncrypt :
    (let t := run (streaming [] 0) 0x0000140E
     dataOut 20 t = 0xc62c012df26eb8f4a48d9d89532a6731da3a84f1 ∧ t.cx.c = 3 ∧ ctrInfoWord t.cx = 0x00042009) := by
  decide +kernel
theorem test_ctrEncrypt_wraps :
    (let t := run (streaming [] 0xffffffffffffffff) 0x0000100E
     dataOut 16 t = 0x72c16ae83d1397cbc62c012df26eb8f4 ∧ t.cx.c = 1) := by decide +kernel
-- CTR-E14.
theorem test_ctrCleanup : (run State.reset 0x0000002F).status.word = 0x06 ∧
    (run (streaming [] 5) 0x0000000F).cx = zeroContext 1 := by decide +kernel
-- 3.1.
theorem test_primSbox : prim 0x30 (beBytes 16 0xf0f1f2f3f4f5f6f7f8f9fafbfcfdfeff)
    = 0xe2caeec6cfe7c7efd2f2defed7f7dfff := by decide +kernel
theorem test_primInvSbox : prim 0x31 (beBytes 16 0x000102030405060708090a0b0c0d0e0f)
    = 0xace8683c6c38a8ecaaae3a3e6a6eeaee := by decide +kernel
theorem test_primShiftRows : prim 0x12 (beBytes 8 0x0123456789abcdef) = 0x01237456ab89defc0000000000000000 ∧
    prim 0x52 (beBytes 8 0x0123456789abcdef) = 0x0b6da1c75e38f4920000000000000000 := by decide +kernel
theorem test_primInvShiftRows : prim 0x13 (beBytes 8 0x0123456789abcdef) = 0x01235674ab89fcde0000000000000000 ∧
    prim 0x53 (beBytes 8 0x0123456789abcdef) = 0x05fad827be41639c0000000000000000 := by decide +kernel
theorem test_primMixColumns : prim 0x34 (beBytes 16 0x000102030405060708090a0b0c0d0e0f)
    = 0x04050607000102030c0c0c0c08080808 ∧ prim 0x54 (beBytes 8 0x1000000000000000)
    = 0x00001000100010000000000000000000 := by decide +kernel
theorem test_primInvMixColumns : prim 0x15 (beBytes 8 0x0123456789abcdef) = 0x456701238888cccc0000000000000000 := by
  decide +kernel
theorem test_primTweakPerm : prim 0x16 (beBytes 8 0x0123456789abcdef) = 0x9f8daecb012345670000000000000000 ∧
    prim 0x56 (beBytes 8 0x0123456789abcdef) = 0x65ef01237cd489ab0000000000000000 := by decide +kernel
theorem test_primInvTweakPerm : prim 0x17 (beBytes 8 0x0123456789abcdef) = 0x89abcdef204763510000000000000000 ∧
    prim 0x57 (beBytes 8 0x0123456789abcdef) = 0x4567b108cdef9a230000000000000000 := by decide +kernel
theorem test_primLfsr2 : prim 0x18 (beBytes 8 0x0123456789abcdef) = 0x02469bdf13578ace0000000000000000 ∧
    prim 0x38 (beBytes 16 0x80ff20407f0000000000000000000000) = 0x01fe4180ff0000000000000000000000 := by decide +kernel
theorem test_primLfsr3 : prim 0x19 (beBytes 8 0x0123456789abcdef) = 0x08192a3bc4d5e6f70000000000000000 ∧
    prim 0x39 (beBytes 16 0x000102030405060708090a0b0c0d0e0f) = 0x00800181028203830484058506860787 := by decide +kernel
-- 3.5: errors from a state, and an ILLEGAL word.
theorem test_errors : (run State.reset 0x00000903).status.word = 0x42 ∧ (run (keyed []) 0x00006323).status.word = 0x32 ∧
    (run (keyed []) 0x00006303).status.word = 0x52 ∧ (run (tweaked []) 0x00000903).status.word = 0x62 ∧
    (run State.reset 0x00000058).status.word = 0x12 ∧ (run State.reset 0x0000010E).status.word = 0x22 := by
  decide +kernel

/-- A host access as the next turn. -/
def withAccess (s : State) (a : Access) : State := { s with schedule := [.access a] }

/-- What the bus answered. -/
def answered (o : Host.Outcome State Fault Refusal) : Option Response :=
  match o with
  | .next t => t.response
  | .fault _ => none
  | .refused _ => none

-- Program 6: a write while busy is dropped and sets OVERRUN; STATUS reads 9.
theorem test_overrun :
    ∃ t, step (withAccess (State.reset.accept 0x801) (.write .bits32 0x040 0xFFFFFFFF)) = .next t ∧
      t.status.word = 9 ∧ t.mem = [] := ⟨_, rfl, rfl, rfl⟩
-- R65: bytes little-endian.
theorem test_read_little_endian :
    answered (step (withAccess (keyed (inputs keyE1 [] [] [] [])) (.read .bits32 0x040))) = some (.data 0x269826F5) := by
  decide +kernel
-- 3.5: the bus errors.
theorem test_bus_errors :
    step (withAccess State.reset (.write .bits32 0x018 1)) = .fault .reservedOffset ∧
    step (withAccess State.reset (.read .bits32 0x070)) = .fault .reservedOffset ∧
    step (withAccess State.reset (.write .bits32 0x002 1)) = .fault .notAlignedWord ∧
    step (withAccess State.reset (.write .bits32 0x008 0)) = .fault .readOnlyWrite ∧
    step (withAccess State.reset (.write .bits32 0x0B0 1)) = .fault .readOnlyWrite ∧
    step (withAccess State.reset (.read .bits8 0x000)) = .fault .notAlignedWord :=
  ⟨rfl, rfl, rfl, rfl, rfl, rfl⟩
-- The host's two questions on one word.
theorem test_decodeTableWord : decodeTableWord 32 0x0000282E = some (.ctrEncrypt .s128 false 40) := by decide
theorem test_withFetchWord : step (State.reset.withFetchWord 32 0x00000005)
    = exec (.clearKey .s64) (State.reset.withFetchWord 32 0x00000005) := rfl

/-! ### States and operands that meet the statements' hypotheses -/

/-- A state with CTR_INIT.S64 accepted and not completed, `turns` to come, on a platform that goes on after bus errors. -/
def busyState (turns : List Turn) : State :=
  { State.reset with cfg := { lanes := .k1, busErrorStops := false }, schedule := turns }.accept 0x00000009

theorem zeroSlot_legal : LegalSlot zeroSlot :=
  ⟨fun _ => rfl, fun h => absurd h (by decide), fun h => absurd h (by decide)⟩

theorem busyState_inv (turns : List Turn) : (busyState turns).Inv where
  memory := rfl
  sequencer := rfl
  busyBit := rfl
  status :=
    ⟨fun _ => rfl, fun _ => ⟨rfl, rfl⟩, fun h => Bool.noConfusion h, Nat.zero_le _, fun h => Bool.noConfusion h⟩
  latch := fun _ h => (Option.some.inj h).symm
  blockKey := zeroSlot_legal
  context :=
    ⟨fun _ => rfl, Nat.zero_le _, rfl, Nat.zero_lt_succ _, zeroSlot_legal, fun h => Bool.noConfusion h, rfl⟩

theorem skinny_legal : LegalSlot (loadSkinny .s64 1 keyE1) where
  empty := fun h => absurd h (by decide)
  skinny := fun _ _ =>
    { z_low := by decide, z_high := by decide, tweaked_z := fun h => absurd h (by decide), rounds := rfl
      unused1 := fun _ => rfl, unused2 := fun _ => rfl
      nibbles := fun _ => ⟨by unfold FitsNibbles; decide +kernel, rfl, rfl⟩, no_mantis := ⟨rfl, rfl, rfl, rfl, rfl⟩ }
  mantis := fun _ h => absurd h (by decide)

theorem mantis_legal : LegalSlot (loadMantis keyGK 7 true) where
  empty := fun h => absurd h (by decide)
  skinny := fun _ h => absurd rfl h
  mantis := fun _ _ =>
    { tweaked := rfl, z := rfl, rounds_low := by decide, rounds_high := by decide, tk := rfl
      encrypting := fun h => absurd h (by decide), decrypting := fun _ => rfl }

theorem context_legal : LegalContext 1 { context (loadSkinny .s64 1 keyE1) 7 with offset := 3 } where
  empty := fun h => absurd h (by decide)
  offset := by decide
  buffer := by decide
  counter := by decide
  slot := skinny_legal
  cipher := fun _ => rfl
  orientation := rfl

-- Encoding.
theorem test_hyp_DecodeInvertsEncode :
    Instr.wellFormed (.setKey .mantis true 511 15 true) = true ∧ Instr.wellFormed (.setKey .s64 false 0 0 false) = true := by
  decide
theorem test_hyp_EncodeInvertsDecode : decode 0x003FFFC1 = .ok (.setKey .mantis true 511 15 true) := by decide
theorem test_hyp_IllegalWords : (State.reset.accept 0).turn = .core ∧
    (State.reset.accept 0).seq.pending = some (takeLatch [] 0) ∧ IllegalWord (takeLatch [] 0).word :=
  ⟨rfl, rfl, .inr (.inl (by decide))⟩
theorem test_hyp_StepRunsPendingCommand : (State.reset.accept 0x09).turn = .core ∧
    (State.reset.accept 0x09).seq.pending = some (takeLatch [] 0x09) ∧
    decode (takeLatch [] 0x09).word = .ok (.ctrInit .s64) ∧ State.reset.turn = .core ∧ State.reset.seq.pending = none :=
  ⟨rfl, rfl, by decide, rfl, rfl⟩

-- The machine.
theorem test_hyp_StepKeepsInvariant : (busyState []).Inv ∧ ∃ t, step (busyState []) = .next t := ⟨busyState_inv [], _, rfl⟩
theorem test_hyp_FailedCommand : ∃ t, exec (.encryptBlock .s64) State.reset = .next t ∧ t.status.ok = false :=
  ⟨_, rfl, rfl⟩
theorem test_hyp_OnlyRefusedAccessesStop :
    step (withAccess State.reset (.read .bits32 0x300)) = .fault .reservedOffset := rfl
theorem test_hyp_CompletionAlwaysComes :
    (busyState [.access (.read .bits32 0x018), .core]).Inv ∧ (busyState []).seq.busy = true ∧
      Turn.reset ∉ (busyState [.access (.read .bits32 0x018), .core]).schedule :=
  ⟨busyState_inv _, rfl, by decide⟩
theorem test_hyp_HostCannotChange : (busyState []).Inv ∧ (busyState []).seq.busy = true ∧
    ∃ t, (busyState []).busAccess (.write .bits32 0x040 1) = .next t := ⟨busyState_inv [], rfl, _, rfl⟩

-- Host accesses, at the boundaries of each range.
theorem test_hyp_idle_write : (withAccess State.reset (.write .bits32 0x004 9)).schedule
      = .access (.write .bits32 0x004 9) :: [] ∧
    (withAccess State.reset (.write .bits32 0x004 9)).seq.busy = false := ⟨rfl, rfl⟩
theorem test_hyp_busy_write : (withAccess (busyState []) (.write .bits32 0x1FC 9)).schedule
      = .access (.write .bits32 0x1FC 9) :: [] ∧
    (withAccess (busyState []) (.write .bits32 0x1FC 9)).seq.busy = true := ⟨rfl, rfl⟩
theorem test_hyp_HostWritten : ∀ a ∈ [0x004, 0x040, 0x06C, 0x080, 0x0AC, 0x100, 0x1FC], HostWritten a ∧ a % 4 = 0 := by
  unfold HostWritten; decide
theorem test_hyp_CoreWritten : ∀ a ∈ [0x0B0, 0x0BC, 0x200, 0x2FC], CoreWritten a ∧ a % 4 = 0 := by
  unfold CoreWritten; decide
theorem test_hyp_idle_read : (withAccess State.reset (.read .bits32 0x2FC)).schedule = .access (.read .bits32 0x2FC) :: [] ∧
    (withAccess State.reset (.read .bits32 0x2FC)).seq.busy = false := ⟨rfl, rfl⟩
theorem test_hyp_StableReads : ((0x594E4B53 : Word) = 0x594E4B53 ∧ (65537 : Word).toNat = State.reset.cfg.lanes.count + 256 * 256) :=
  ⟨rfl, rfl⟩
theorem test_hyp_busy_read : (withAccess (busyState []) (.read .bits32 0x00C)).schedule
      = .access (.read .bits32 0x00C) :: [] ∧
    (withAccess (busyState []) (.read .bits32 0x00C)).seq.busy = true := ⟨rfl, rfl⟩
theorem test_hyp_BusErrors_aligned : (Access.read .bits16 0x004).width ≠ .bits32 ∧ (Access.read .bits32 0x006).offset % 4 ≠ 0 := by
  decide
theorem test_hyp_BusErrors_reserved :
    ∀ a ∈ [0x018, 0x03C, 0x070, 0x07C, 0x0C0, 0x0FC, 0x300, 0xFFC], ReservedOffset a ∧ a % 4 = 0 := by
  unfold ReservedOffset; decide
theorem test_hyp_BusErrors_readOnly :
    ∀ a ∈ [0x000, 0x008, 0x014, 0x0B0, 0x0BC, 0x200, 0x2FC], ReadOnlyOffset a ∧ a % 4 = 0 := by
  unfold ReadOnlyOffset CoreWritten; decide
theorem test_hyp_BusErrors_none : ∀ a ∈ [0x000, 0x014, 0x040, 0x06C, 0x0BC, 0x2FC], ¬ ReservedOffset a ∧ a % 4 = 0 := by
  unfold ReservedOffset; decide
theorem test_hyp_BusErrors_platform : State.reset.cfg.busErrorStops = true ∧ (busyState []).cfg.busErrorStops = false :=
  ⟨rfl, rfl⟩
theorem test_hyp_InfoWords : LegalSlot zeroSlot ∧ zeroSlot.valid = false ∧ LegalSlot (loadMantis keyGK 7 true) ∧
    (loadMantis keyGK 7 true).valid = true ∧ LegalContext 1 { context (loadSkinny .s64 1 keyE1) 7 with offset := 3 } :=
  ⟨zeroSlot_legal, rfl, mantis_legal, rfl, context_legal⟩
theorem test_hyp_ResetLeavesResetValues : (busyState [.reset]).schedule = .reset :: [] := rfl
theorem test_hyp_BusNeverShowsSecrets : (withAccess (keyed []) (.read .bits32 0x00C)).schedule
      = .access (.read .bits32 0x00C) :: [] ∧
    SamePublic (withAccess (keyed []) (.read .bits32 0x00C))
      { withAccess (keyed []) (.read .bits32 0x00C) with bk := loadSkinny .s64 1 [] } :=
  ⟨rfl, ⟨rfl, rfl, rfl, rfl, rfl, rfl⟩, ⟨rfl, rfl, rfl, rfl, rfl, rfl⟩, rfl, rfl, rfl, rfl⟩

-- Key setup.
theorem test_hyp_SetKeyMantis (s : State) (w : Word) :
    (s.accept w).latch.Sized ∧ 5 ≤ (5 : BitVec 4).toNat ∧ (8 : BitVec 4).toNat ≤ 8 :=
  ⟨takeLatch_sized _ _, by decide, by decide⟩
theorem test_hyp_SetTweak : ((tweaked []).accept 0x83).latch.Sized ∧ ((tweaked []).accept 0x83).bk.valid = true ∧
    ((tweaked []).accept 0x83).bk.cipher = .s64 ∧ ((tweaked []).accept 0x83).bk.tweaked = true ∧
    (8 : BitVec 9).toNat ≤ blockSize .s64 := ⟨takeLatch_sized _ _, rfl, rfl, rfl, by decide⟩
theorem test_hyp_SetTweak_mantis : (mantisKeyed []).bk.valid = true ∧ (mantisKeyed []).bk.cipher = .mantis ∧
    (mantisKeyed []).bk.tweaked = true := ⟨rfl, rfl, rfl⟩
theorem test_hyp_KeyCommandsReject : (0 : BitVec 9).toNat ≠ blockSize .s64 ∧ (0 : BitVec 9).toNat ≠ 2 * blockSize .s64 ∧
    (0 : BitVec 9).toNat ≠ 3 * blockSize .s64 ∧ (511 : BitVec 9).toNat ≠ 16 ∧ (4 : BitVec 4).toNat < 5 ∧
    8 < (9 : BitVec 4).toNat ∧ Instr.wellFormed (.swapModes .s128) = false := by decide
theorem test_hyp_BlockKeyErrors : UsesBlockKey .s128 (.encryptBlock .s128) ∧ (keyed []).bk.valid = true ∧
    (keyed []).bk.cipher ≠ .s128 ∧ State.reset.bk.valid = false ∧ (keyed []).bk.tweaked = false ∧
    (tweaked []).bk.tweaked = true ∧ (1 : BitVec 9) ≠ 0 ∧ blockSize .s64 < (9 : BitVec 9).toNat :=
  ⟨.encryptBlock _, rfl, by decide, rfl, rfl, rfl, by decide, by decide⟩

-- Block commands.
theorem test_hyp_EncryptBlock : (keyed []).bk.valid = true ∧ (keyed []).bk.cipher = .s64 ∧
    (mantisKeyed []).bk.valid = true ∧ (mantisKeyed []).bk.cipher = .mantis := ⟨rfl, rfl, rfl, rfl⟩
theorem test_hyp_CryptTweaked : ((mantisKeyed []).accept 0x48).latch.Sized ∧ ((mantisKeyed []).accept 0x48).bk.valid = true ∧
    ((mantisKeyed []).accept 0x48).bk.cipher = .mantis := ⟨takeLatch_sized _ _, rfl, rfl⟩
theorem test_hyp_SkinnyDecrypt : keyE1.length = blockSize (loadSkinny .s64 1 keyE1).cipher := by decide

/-- `t` with the block it put into BLOCK_OUT copied into BLOCK_IN and the word `w` accepted. -/
def fedBack (t : State) (w : Word) : State :=
  { t with mem := t.mem.writeBytes 0x0A0 (t.mem.readBytes 0x0B0 8) }.accept w

theorem test_hyp_DecryptUndoes_skinny :
    (let s := (keyed (inputs [] [] [] keyE1 [])).accept 0x06
     let t := run (keyed (inputs [] [] [] keyE1 [])) 0x06
     exec (.encryptBlock .s64) s = .next t ∧
       (fedBack t 0x07).latch.blockIn.take 8 = t.mem.readBytes 0x0B0 8 ∧ (fedBack t 0x07).bk = t.bk) :=
  ⟨rfl, by decide +kernel, rfl⟩
theorem test_hyp_DecryptUndoes_mantis :
    (let s := (mantisKeyed (inputs [] [] [] keyE1 [])).accept 0x46
     let t := run (mantisKeyed (inputs [] [] [] keyE1 [])) 0x46
     let u : State := { fedBack t 0x46 with bk := swapSlot t.bk }
     exec (.encryptBlock .mantis) s = .next t ∧ u.latch.blockIn.take 8 = t.mem.readBytes 0x0B0 8 ∧
       ∃ w, exec (.swapModes .mantis) t = .next w ∧ u.bk = w.bk) :=
  ⟨rfl, by decide +kernel, _, rfl, rfl⟩
theorem test_hyp_SkinnyRounds : (keyed []).bk.cipher = .s64 ∧ (keyed128 3 0 []).bk.cipher = .s128 := ⟨rfl, rfl⟩
theorem test_hyp_RoundKeys : 1 ≤ 1 ∧ 1 ≤ 3 ∧ 3 ≤ 3 := by decide

-- The CTR unit.
theorem test_hyp_CtrKeyCommands : (State.reset.accept 0x0A).latch.Sized ∧ (initContext 1 .s64).init = true ∧
    (initContext 1 .s64).cipher = .s64 ∧ (initContext 1 .mantis).cipher = .mantis :=
  ⟨takeLatch_sized _ _, rfl, rfl, rfl⟩
theorem test_hyp_CtrSetTweak : (context (loadSkinnyTweaked .s64 1 keyE1) 0).ks.valid = true ∧
    (context (loadSkinnyTweaked .s64 1 keyE1) 0).ks.tweaked = true ∧
    (context (loadMantis keyGK 7 false) 0).ks.tweaked = true ∧ (context (loadMantis keyGK 7 false) 0).init = true ∧
    (8 : BitVec 9).toNat ≤ blockSize .s64 := by decide
theorem test_hyp_CtrSetCounter : ((streaming [] 3).accept 0x80D).latch.Sized ∧
    ((streaming [] 3).accept 0x80D).cx.init = true ∧ ((streaming [] 3).accept 0x80D).cx.cipher = .s64 ∧
    (8 : BitVec 9).toNat ≤ blockSize .s64 := ⟨takeLatch_sized _ _, rfl, rfl, by decide⟩
theorem test_hyp_CtrEncrypt :
    (let s : State := { streaming [] 7 with cx := { context (loadSkinny .s64 1 keyE1) 7 with offset := 3 } }.accept 0x10E
     s.latch.Sized ∧ LegalContext s.cfg.lanes.count s.cx ∧ s.cx.init = true ∧ s.cx.cipher = .s64 ∧
       s.cx.ks.valid = true ∧ (256 : BitVec 9).toNat ≤ 256) :=
  ⟨takeLatch_sized _ _, context_legal, rfl, rfl, rfl, by decide⟩
theorem test_hyp_ContextErrors : UsesContext .s64 (.ctrEncrypt .s64 false 0) ∧ State.reset.cx.init = false ∧
    (streaming [] 0).cx.init = true ∧ UsesContext .s128 (.ctrSetKey .s128 false 5 0) ∧ (streaming [] 0).cx.cipher ≠ .s128 :=
  ⟨.ctrEncrypt _ _ _, rfl, rfl, .ctrSetKey _ _ _ _ (.inr rfl), by decide⟩
theorem test_hyp_ContextCommandErrors : (initContext 1 .s64).ks.valid = false ∧ (streaming [] 0).cx.ks.valid = true ∧
    (streaming [] 0).cx.ks.tweaked = false ∧ 256 < (257 : BitVec 9).toNat ∧
    (context (loadSkinnyTweaked .s64 1 keyE1) 0).ks.tweaked = true := by decide
theorem test_hyp_LaneCountHidden : LegalContext 1 (context (loadSkinny .s64 1 keyE1) 0) ∧
    LegalContext 2 { context (loadSkinny .s64 1 keyE1) 0 with buf := List.replicate 16 0, offset := 16 } :=
  ⟨⟨fun h => absurd h (by decide), by decide, by decide, by decide, skinny_legal, fun _ => rfl, rfl⟩,
    ⟨fun h => absurd h (by decide), by decide, by decide, by decide, skinny_legal, fun _ => rfl, rfl⟩⟩

-- Whole-machine rules.
theorem test_hyp_CommandsWriteOnly : IsCtrCommand (.ctrInit .s64) ∧ ¬ IsCtrCommand (.clearKey .s64) ∧
    (∃ t, exec (.ctrInit .s64) State.reset = .next t) ∧ ∃ t, exec (.clearKey .s64) State.reset = .next t :=
  ⟨trivial, fun h => h, ⟨_, rfl⟩, ⟨_, rfl⟩⟩

end Sys2Proof.Tests
end

section
/-! PROOF. Key setup: the tweakey words of a key operand, the Skinny slots built from them, and the commands that load
them into the block key slot (41_key_setup.md R173, R174, R185, R187). -/

namespace Sys2Proof.Machine

/-! ### Tweakey words of key bytes (20_memory.md R68, R72) -/

/-- A serialized block's cells rest on its first block-size bytes alone. -/
theorem serialCell_congr {c : Cipher} {b b' : List Byte} (h : ∀ k < blockSize c, b.getD k 0 = b'.getD k 0)
    {i : Nat} (hi : i < 16) : serialCell c b i = serialCell c b' i := by
  cases c with
  | s128 => rw [serialCell, serialCell, h i hi]
  | s64 | mantis => rw [serialCell, serialCell, h (i / 2) (by simp only [blockSize]; omega)]

/-- Nibble cells kept in 8-bit cells have the same values (log 7). -/
theorem toNat_cellAt_resizeCells_nibbles (s : Cells 4) {i : Nat} (hi : i < 16) :
    (cellAt (resizeCells 8 s) i).toNat = (cellAt s i).toNat := by
  rw [resizeCells, cellAt_mapCells _ _ _ hi]
  exact BitVec.toNat_setWidth_of_le (by decide)

/-- A block of bytes stored as a tweakey word is that block serialized. -/
theorem wordOfBytes_slotCells (c : Cipher) (b : List Byte) : WordOfBytes c (slotCells c b) b := by
  intro i hi
  cases c with
  | s128 => exact toNat_cellAt_cells8 b hi
  | s64 | mantis =>
    exact (toNat_cellAt_resizeCells_nibbles _ hi).trans (toNat_cellAt_cells4 b (by decide) hi)

/-- Key word `j` is the block of key bytes that begins at `j * bs`. -/
theorem wordOfBytes_keyWord (c : Cipher) (key : List Byte) (j : Nat) :
    WordOfBytes c (keyWord c key j) (key.drop (j * blockSize c)) := by
  intro i hi
  rw [keyWord, wordOfBytes_slotCells c _ i hi]
  refine serialCell_congr (fun k hk => ?_) hi
  simp only [List.getD_eq_getElem?_getD, List.getElem?_take_of_lt hk]

/-- A key operand of `n` words holds each of its words whole. -/
theorem keyWord_take (c : Cipher) (key : List Byte) {j n : Nat} (hj : j < n) :
    keyWord c (key.take (n * blockSize c)) j = keyWord c key j := by
  have hle : (j + 1) * blockSize c ≤ n * blockSize c := Nat.mul_le_mul_right _ hj
  rw [keyWord, keyWord, List.drop_take, List.take_take, Nat.min_eq_left (by rw [Nat.succ_mul] at hle; omega)]

/-! ### The words and the round count of a loaded slot (00_scope.md R3) -/

theorem roundCount_eq_skinnyRoundsOf {c : Cipher} (hc : c ≠ .mantis) {z : Nat} (h1 : 1 ≤ z) (h3 : z ≤ 3) :
    roundCount c z = skinnyRoundsOf c z := by
  cases c with
  | s64 | s128 => interval_cases z <;> rfl
  | mantis => contradiction

theorem slotWord_loadSkinny (c : Cipher) (z : Nat) (key : List Byte) {j : Nat} (hj : j < 3) :
    slotWord (loadSkinny c z key) j = if j < z then keyWord c key j else zeroCells 8 := by
  interval_cases j <;> rfl

theorem slotWord_loadSkinnyTweaked_zero (c : Cipher) (m : Nat) (key : List Byte) :
    slotWord (loadSkinnyTweaked c m key) 0 = zeroCells 8 := rfl

theorem slotWord_loadSkinnyTweaked_succ (c : Cipher) (m : Nat) (key : List Byte) {j : Nat} (hj : j < 2) :
    slotWord (loadSkinnyTweaked c m key) (j + 1) = if j < m then keyWord c key j else zeroCells 8 := by
  interval_cases j <;> rfl

/-- LoadSkinny of an operand of `z` words is the untweaked slot of R173. -/
theorem loadedSkinny_loadSkinny {c : Cipher} (hc : c ≠ .mantis) {z : Nat} (h1 : 1 ≤ z) (h3 : z ≤ 3)
    (key : List Byte) : LoadedSkinny c z key (loadSkinny c z (key.take (z * blockSize c))) where
  header := ⟨rfl, rfl, rfl, rfl⟩
  rounds := roundCount_eq_skinnyRoundsOf hc h1 h3
  words j hj := by
    rw [slotWord_loadSkinny c z _ (by omega), if_pos hj, keyWord_take c key hj]
    exact wordOfBytes_keyWord c key j
  noWords j hj hz := by rw [slotWord_loadSkinny c z _ hj, if_neg (by omega)]
  noMantis := ⟨rfl, rfl, rfl, rfl, rfl⟩

/-- LoadSkinny of an operand of `m` words beside the zero tweak is the tweaked slot of R174. -/
theorem loadedTweaked_loadSkinnyTweaked {c : Cipher} (hc : c ≠ .mantis) {m : Nat} (h1 : 1 ≤ m) (h2 : m ≤ 2)
    (key : List Byte) : LoadedTweaked c m key (loadSkinnyTweaked c m (key.take (m * blockSize c))) where
  header := ⟨rfl, rfl, rfl, rfl⟩
  rounds := roundCount_eq_skinnyRoundsOf hc (by omega) (by omega)
  tweakWord := slotWord_loadSkinnyTweaked_zero c m _
  words j hj := by
    rw [slotWord_loadSkinnyTweaked_succ c m _ (by omega), if_pos hj, keyWord_take c key hj]
    exact wordOfBytes_keyWord c key j
  noWords j hj hm := by
    obtain ⟨i, rfl⟩ : ∃ i, j = i + 1 := ⟨j - 1, by omega⟩
    rw [slotWord_loadSkinnyTweaked_succ c m _ (by omega), if_neg (by omega)]
  noMantis := ⟨rfl, rfl, rfl, rfl, rfl⟩

/-! ### Operands of a whole number of words (41_key_setup.md R185, R187) -/

/-- LEN holds the length of up to three words: at most 48 bytes. -/
theorem toNat_wordsLength (c : Cipher) {n : Nat} (hn : n ≤ 3) :
    (BitVec.ofNat 9 (n * blockSize c)).toNat = n * blockSize c := by
  have hbs : blockSize c ≤ 16 := by cases c <;> decide
  have hlen : n * blockSize c ≤ 3 * 16 := Nat.mul_le_mul hn hbs
  rw [BitVec.toNat_ofNat, Nat.mod_eq_of_lt (by omega)]

theorem wordCount_wordsLength (c : Cipher) {n most : Nat} (hn : n ≤ most) (h3 : most ≤ 3) :
    wordCount c most (BitVec.ofNat 9 (n * blockSize c)) = n := by
  have hbs : 0 < blockSize c := by cases c <;> decide
  rw [wordCount, toNat_wordsLength c (hn.trans h3), Nat.mul_div_cancel n hbs]
  exact if_pos ⟨rfl, hn⟩

theorem keyOperand_wordsLength (s : State) (c : Cipher) {n : Nat} (hn : n ≤ 3) :
    s.keyOperand (BitVec.ofNat 9 (n * blockSize c)) = s.latch.key.take (n * blockSize c) := by
  rw [State.keyOperand, toNat_wordsLength c hn]

theorem badKeyOperand_skinny {c : Cipher} (hc : c ≠ .mantis) (nullp : Bool) (len : BitVec 9) (rounds : BitVec 4) :
    badKeyOperand c nullp len rounds = (nullp || wordCount c 3 len == 0) := by
  cases c with
  | s64 | s128 => simp [badKeyOperand, keyLengthOk, bne]
  | mantis => contradiction

theorem badTweakedKeyOperand_eq (c : Cipher) (nullp : Bool) (len : BitVec 9) :
    badTweakedKeyOperand c nullp len = (nullp || wordCount c 2 len == 0) := by
  simp [badTweakedKeyOperand, tweakedKeyLengthOk, bne]

/-- An untweaked Skinny key of one, two or three words passes the PARAM check. -/
theorem badKeyOperand_wordsLength {c : Cipher} (hc : c ≠ .mantis) {z : Nat} (h1 : 1 ≤ z) (h3 : z ≤ 3)
    (rounds : BitVec 4) : badKeyOperand c false (BitVec.ofNat 9 (z * blockSize c)) rounds = false := by
  rw [badKeyOperand_skinny hc, wordCount_wordsLength c h3 le_rfl, Bool.false_or, beq_eq_false_iff_ne]
  omega

/-- A tweaked Skinny key of one or two words passes the PARAM check. -/
theorem badTweakedKeyOperand_wordsLength (c : Cipher) {m : Nat} (h1 : 1 ≤ m) (h2 : m ≤ 2) :
    badTweakedKeyOperand c false (BitVec.ofNat 9 (m * blockSize c)) = false := by
  rw [badTweakedKeyOperand_eq, wordCount_wordsLength c h2 (by decide), Bool.false_or, beq_eq_false_iff_ne]
  omega

theorem loadedSlot_skinny {c : Cipher} (hc : c ≠ .mantis) (s : State) (len : BitVec 9) (rounds : BitVec 4)
    (mode : Bool) : s.loadedSlot c len rounds mode = loadSkinny c (wordCount c 3 len) (s.keyOperand len) := by
  cases c with
  | s64 | s128 => rfl
  | mantis => contradiction

theorem loadedSlot_wordsLength {c : Cipher} (hc : c ≠ .mantis) (s : State) {z : Nat} (h3 : z ≤ 3)
    (rounds : BitVec 4) (mode : Bool) :
    s.loadedSlot c (BitVec.ofNat 9 (z * blockSize c)) rounds mode
      = loadSkinny c z (s.latch.key.take (z * blockSize c)) := by
  rw [loadedSlot_skinny hc, wordCount_wordsLength c h3 le_rfl, keyOperand_wordsLength s c h3]

theorem loadedTweakedSlot_wordsLength (s : State) (c : Cipher) {m : Nat} (h2 : m ≤ 2) :
    s.loadedTweakedSlot c (BitVec.ofNat 9 (m * blockSize c))
      = loadSkinnyTweaked c m (s.latch.key.take (m * blockSize c)) := by
  rw [State.loadedTweakedSlot, wordCount_wordsLength c h2 (by decide), keyOperand_wordsLength s c (by omega)]

/-! ### The commands -/

theorem isSkinny_of_ne_mantis {c : Cipher} (hc : c ≠ .mantis) : c.isSkinny = true := by
  cases c with
  | s64 | s128 => rfl
  | mantis => contradiction

/-- SET_KEY with a legal word and a good operand loads its slot. -/
theorem exec_setKey_of_good {c : Cipher} {nullp : Bool} {len : BitVec 9} {rounds : BitVec 4} {mode : Bool}
    (hwf : (Instr.setKey c nullp len rounds mode).wellFormed = true)
    (hgood : badKeyOperand c nullp len rounds = false) (s : State) :
    exec (.setKey c nullp len rounds mode) s = .next (succeeded { s with bk := s.loadedSlot c len rounds mode }) :=
  command_of_passed hwf (List.forall_mem_singleton.mpr hgood)

/-- SET_TWEAKED_KEY with a Skinny cipher and a good operand loads its slot. -/
theorem exec_setTweakedKey_of_good {c : Cipher} (hc : c ≠ .mantis) {nullp : Bool} {len : BitVec 9}
    (hgood : badTweakedKeyOperand c nullp len = false) (s : State) :
    exec (.setTweakedKey c nullp len) s = .next (succeeded { s with bk := s.loadedTweakedSlot c len }) :=
  command_of_passed (isSkinny_of_ne_mantis hc) (List.forall_mem_singleton.mpr hgood)

/-- Settles O22: the operand passes its one check, and LoadSkinny of it is the slot of R173. -/
theorem setKeySkinnyLoadsSlot : Obligations.SetKeySkinnyLoadsSlot := by
  intro s c z hc h1 h3
  have hexec := exec_setKey_of_good (mode := false) (by simp [Instr.wellFormed])
    (badKeyOperand_wordsLength hc h1 h3 0) s
  rw [loadedSlot_wordsLength hc s h3] at hexec
  exact ⟨_, hexec, loadedSkinny_loadSkinny hc h1 h3 s.latch.key⟩

/-- Settles O24: as SET_KEY, with the zero tweak as first word and the key words after it (R174). -/
theorem setTweakedKeyLoadsSlot : Obligations.SetTweakedKeyLoadsSlot := by
  intro s c m hc h1 h2
  have hexec := exec_setTweakedKey_of_good hc (badTweakedKeyOperand_wordsLength c h1 h2) s
  rw [loadedTweakedSlot_wordsLength s c h2] at hexec
  exact ⟨_, hexec, loadedTweaked_loadSkinnyTweaked hc h1 h2 s.latch.key⟩

end Sys2Proof.Machine
end

section
/-! PROOF. Legal key slots and CTR contexts: every load, new tweak, swap and keystream refill makes a legal one again
(10_state.md R40-R42, R47, R49). -/

namespace Sys2Proof.Machine

/-! ### Key slots -/

theorem legalSlot_zeroSlot : LegalSlot zeroSlot where
  empty _ := rfl
  skinny h := nomatch h
  mantis h := nomatch h

theorem fitsNibbles_zeroCells : FitsNibbles (zeroCells 8) := rfl

/-- A serialized Skinny-64 block fills only the low nibble of each cell (log 7). -/
theorem fitsNibbles_slotCells_s64 (b : List Byte) : FitsNibbles (slotCells .s64 b) :=
  cells_ext fun i hi => by
    simp only [slotCells, resizeCells, cellAt_mapCells _ _ _ hi]
    rw [BitVec.setWidth_setWidth_of_le (k := 4) _ (by decide), BitVec.setWidth_eq]

theorem fitsNibbles_word_ite {p : Prop} [Decidable p] (key : List Byte) (j : Nat) :
    FitsNibbles (if p then keyWord .s64 key j else zeroCells 8) := by
  split
  · exact fitsNibbles_slotCells_s64 _
  · exact fitsNibbles_zeroCells

/-- A valid Skinny slot is legal when it is a Skinny slot. -/
theorem LegalSlot.of_skinny {slot : KeySlot} (hv : slot.valid = true) (hc : slot.cipher ≠ .mantis)
    (h : SkinnySlot slot) : LegalSlot slot where
  empty hn := by simp [hv] at hn
  skinny _ _ := h
  mantis _ hm := absurd hm hc

/-- A valid Mantis slot is legal when it is a Mantis slot. -/
theorem LegalSlot.of_mantis {slot : KeySlot} (hv : slot.valid = true) (hc : slot.cipher = .mantis)
    (h : MantisSlot slot) : LegalSlot slot where
  empty hn := by simp [hv] at hn
  skinny _ hn := absurd hc hn
  mantis _ _ := h

theorem legalSlot_loadSkinny {c : Cipher} (hc : c ≠ .mantis) {z : Nat} (h1 : 1 ≤ z) (h3 : z ≤ 3) (key : List Byte) :
    LegalSlot (loadSkinny c z key) :=
  .of_skinny rfl hc
    { z_low := h1
      z_high := h3
      tweaked_z := nofun
      rounds := rfl
      unused1 := fun hz => if_neg (Nat.not_lt.mpr hz)
      unused2 := fun hz => if_neg (Nat.not_lt.mpr hz)
      nibbles := by
        rintro rfl
        exact ⟨fitsNibbles_word_ite key 0, fitsNibbles_word_ite key 1, fitsNibbles_word_ite key 2⟩
      no_mantis := ⟨rfl, rfl, rfl, rfl, rfl⟩ }

theorem legalSlot_loadSkinnyTweaked {c : Cipher} (hc : c ≠ .mantis) {m : Nat} (h1 : 1 ≤ m) (h2 : m ≤ 2)
    (key : List Byte) : LegalSlot (loadSkinnyTweaked c m key) :=
  .of_skinny rfl hc
    { z_low := Nat.le_add_left 1 m
      z_high := Nat.succ_le_succ h2
      tweaked_z := fun _ => Nat.succ_le_succ h1
      rounds := rfl
      unused1 := fun hz => absurd (Nat.le_of_succ_le_succ hz) (by omega)
      unused2 := fun hz => if_neg (Nat.not_lt.mpr (Nat.le_of_succ_le_succ hz))
      nibbles := by
        rintro rfl
        exact ⟨fitsNibbles_zeroCells, fitsNibbles_word_ite key 0, fitsNibbles_word_ite key 1⟩
      no_mantis := ⟨rfl, rfl, rfl, rfl, rfl⟩ }

theorem mantisSlot_swapSlot {slot : KeySlot} (h : MantisSlot slot) : MantisSlot (swapSlot slot) where
  tweaked := h.tweaked
  z := h.z
  rounds_low := h.rounds_low
  rounds_high := h.rounds_high
  tk := h.tk
  encrypting hm := h.decrypting (by simpa [swapSlot] using hm)
  decrypting hm := h.encrypting (by simpa [swapSlot] using hm)

theorem legalSlot_swapSlot {slot : KeySlot} (hv : slot.valid = true) (hc : slot.cipher = .mantis)
    (h : LegalSlot slot) : LegalSlot (swapSlot slot) :=
  .of_mantis hv hc (mantisSlot_swapSlot (h.mantis hv hc))

theorem mantisSlot_loadMantis (key : List Byte) {r : Nat} (h5 : 5 ≤ r) (h8 : r ≤ 8) :
    MantisSlot (loadMantis key r false) where
  tweaked := rfl
  z := rfl
  rounds_low := h5
  rounds_high := h8
  tk := rfl
  encrypting _ := rfl
  decrypting := nofun

theorem legalSlot_loadMantis (key : List Byte) {r : Nat} (h5 : 5 ≤ r) (h8 : r ≤ 8) (m : Bool) :
    LegalSlot (loadMantis key r m) := by
  have henc : MantisSlot (loadMantis key r false) := mantisSlot_loadMantis key h5 h8
  cases m with
  | false => exact .of_mantis rfl rfl henc
  | true => exact .of_mantis rfl rfl (mantisSlot_swapSlot henc)

/-- A new tweak of the slot's own cipher keeps a legal tweaked slot legal. -/
theorem legalSlot_retweakSlot {slot : KeySlot} {c : Cipher} (hv : slot.valid = true) (hc : slot.cipher = c)
    (h : LegalSlot slot) (tb : List Byte) : LegalSlot (retweakSlot slot c tb) := by
  subst hc
  cases hcipher : slot.cipher with
  | mantis =>
    obtain ⟨htw, hz, hlow, hhigh, htk, henc, hdec⟩ := h.mantis hv hcipher
    exact .of_mantis hv hcipher ⟨htw, hz, hlow, hhigh, htk, henc, hdec⟩
  | s64 =>
    obtain ⟨hlow, hhigh, htz, hr, hu1, hu2, hn, hm⟩ := h.skinny hv (by simp [hcipher])
    obtain ⟨-, hn1, hn2⟩ := hn hcipher
    exact .of_skinny hv (by simp [retweakSlot, hcipher])
      ⟨hlow, hhigh, htz, hr, hu1, hu2, fun _ => ⟨fitsNibbles_slotCells_s64 tb, hn1, hn2⟩, hm⟩
  | s128 =>
    obtain ⟨hlow, hhigh, htz, hr, hu1, hu2, hn, hm⟩ := h.skinny hv (by simp [hcipher])
    exact .of_skinny hv (by simp [retweakSlot, hcipher])
      ⟨hlow, hhigh, htz, hr, hu1, hu2, fun hs => by simp [retweakSlot, hcipher] at hs, hm⟩

/-! ### The slots that key commands load (41_key_setup.md R185-R187) -/

theorem wordCount_le (c : Cipher) (most : Nat) (len : BitVec 9) : wordCount c most len ≤ most := by
  unfold wordCount
  dsimp only
  split
  · rename_i h
    exact h.2
  · exact Nat.zero_le _

/-- What passes the PARAM check of SET_KEY and CTR_SET_KEY loads a legal slot. -/
theorem legalSlot_loadedSlot {c : Cipher} {nullp : Bool} {len : BitVec 9} {rounds : BitVec 4}
    (hgood : badKeyOperand c nullp len rounds = false) (s : State) (mode : Bool) :
    LegalSlot (s.loadedSlot c len rounds mode) := by
  by_cases hc : c = .mantis
  · subst hc
    obtain ⟨-, ⟨-, h5⟩, h8⟩ : nullp = false ∧ (len.toNat = 16 ∧ 5 ≤ rounds.toNat) ∧ rounds.toNat ≤ 8 := by
      simpa [badKeyOperand, mantisKeyOk] using hgood
    exact legalSlot_loadMantis _ h5 h8 mode
  · obtain ⟨-, hz⟩ : nullp = false ∧ wordCount c 3 len ≠ 0 := by simpa [badKeyOperand_skinny hc] using hgood
    rw [loadedSlot_skinny hc]
    exact legalSlot_loadSkinny hc (Nat.pos_of_ne_zero hz) (wordCount_le c 3 len) _

/-- What passes the PARAM check of the tweaked key commands loads a legal slot. -/
theorem legalSlot_loadedTweakedSlot {c : Cipher} (hc : c ≠ .mantis) {nullp : Bool} {len : BitVec 9}
    (hgood : badTweakedKeyOperand c nullp len = false) (s : State) : LegalSlot (s.loadedTweakedSlot c len) := by
  obtain ⟨-, hz⟩ : nullp = false ∧ wordCount c 2 len ≠ 0 := by simpa [badTweakedKeyOperand_eq] using hgood
  exact legalSlot_loadSkinnyTweaked hc (Nat.pos_of_ne_zero hz) (wordCount_le c 2 len) _

theorem loadedSlot_cipher (s : State) (c : Cipher) (len : BitVec 9) (rounds : BitVec 4) (mode : Bool) :
    (s.loadedSlot c len rounds mode).cipher = c := by
  cases c with
  | s64 | s128 => rfl
  | mantis => cases mode <;> rfl

/-- CTR keys are loaded in encrypt orientation. -/
theorem loadedSlot_mode_false (s : State) (c : Cipher) (len : BitVec 9) (rounds : BitVec 4) :
    (s.loadedSlot c len rounds false).mode = false := by
  cases c <;> rfl

/-- A new tweak leaves the slot's public fields. -/
theorem retweakSlot_public (slot : KeySlot) (c : Cipher) (tb : List Byte) :
    SamePublicSlot (retweakSlot slot c tb) slot := by
  cases c <;> exact ⟨rfl, rfl, rfl, rfl, rfl, rfl⟩

end Sys2Proof.Machine
end

section
/-! PROOF. Legal CTR contexts, and the keystream as one sequence of bytes whatever the lane count (10_state.md R47-R49,
43_ctr.md R260-R262). -/

namespace Sys2Proof.Machine

/-! ### Sizes -/

theorem blockSize_pos (c : Cipher) : 0 < blockSize c := by cases c <;> decide

theorem blockSize_le (c : Cipher) : blockSize c ≤ 16 := by cases c <;> decide

theorem lanes_count_pos (l : Lanes) : 0 < l.count := by cases l <;> decide

theorem bufferSize_pos {k : Nat} (hk : 0 < k) (c : Cipher) : 0 < bufferSize k c := Nat.mul_pos hk (blockSize_pos c)

theorem counterModulus_pos (c : Cipher) : 0 < counterModulus c := Nat.two_pow_pos _

theorem length_flatMap_range {α : Type} {f : Nat → List α} {n : Nat} (hf : ∀ j, (f j).length = n) (k : Nat) :
    ((List.range k).flatMap f).length = k * n := by
  simp [List.length_flatMap, hf]

/-! ### Legal contexts -/

theorem legalContext_zeroContext (k : Nat) : LegalContext k (zeroContext k) where
  empty _ := rfl
  offset := Nat.zero_le _
  buffer := List.length_replicate
  counter := counterModulus_pos .s64
  slot := legalSlot_zeroSlot
  cipher := nofun
  orientation := rfl

theorem legalContext_initContext (k : Nat) (c : Cipher) : LegalContext k (initContext k c) where
  empty := nofun
  offset := le_rfl
  buffer := List.length_replicate
  counter := counterModulus_pos c
  slot := legalSlot_zeroSlot
  cipher := nofun
  orientation := rfl

/-- A new slot of the context's cipher in encrypt orientation, with the keystream discarded. -/
theorem legalContext_rekeyed {k : Nat} {cx : CtrContext} (h : LegalContext k cx) (hi : cx.init = true)
    {slot : KeySlot} (hslot : LegalSlot slot) (hc : slot.cipher = cx.cipher) (hm : slot.mode = false) :
    LegalContext k (exhausted k { cx with ks := slot }) where
  empty hn := by simp [exhausted, hi] at hn
  offset := le_rfl
  buffer := h.buffer
  counter := h.counter
  slot := hslot
  cipher _ := hc
  orientation := hm

/-- A new counter in range, with the keystream discarded. -/
theorem legalContext_recounted {k : Nat} {cx : CtrContext} (h : LegalContext k cx) (hi : cx.init = true) {v : Nat}
    (hv : v < counterModulus cx.cipher) : LegalContext k (exhausted k { cx with c := v }) where
  empty hn := by simp [exhausted, hi] at hn
  offset := le_rfl
  buffer := h.buffer
  counter := hv
  slot := h.slot
  cipher := h.cipher
  orientation := h.orientation

/-! ### Refills -/

theorem length_keystreamBlock {cx : CtrContext} (hc : cx.ks.cipher = cx.cipher) (v : Nat) :
    (keystreamBlock cx v).length = blockSize cx.cipher := by
  rw [keystreamBlock, length_blockEncrypt, hc]

theorem length_refill_buf (k : Nat) {cx : CtrContext} (hc : cx.ks.cipher = cx.cipher) :
    (refill k cx).buf.length = bufferSize k cx.cipher :=
  length_flatMap_range (fun j => length_keystreamBlock hc (cx.c + j)) k

theorem legalContext_refill {k : Nat} {cx : CtrContext} (h : LegalContext k cx) (hi : cx.init = true)
    (hv : cx.ks.valid = true) : LegalContext k (refill k cx) where
  empty hn := by simp [refill, hi] at hn
  offset := Nat.zero_le _
  buffer := length_refill_buf k (h.cipher hv)
  counter := Nat.mod_lt _ (counterModulus_pos _)
  slot := h.slot
  cipher := h.cipher
  orientation := h.orientation

/-- What `readied` gives: a refill of an exhausted context, or a context with keystream left as it is. -/
theorem readied_cases (k : Nat) (cx : CtrContext) :
    (bufferSize k cx.cipher ≤ cx.offset ∧ readied k cx = refill k cx) ∨
      (cx.offset < bufferSize k cx.cipher ∧ readied k cx = cx) := by
  unfold readied
  split
  · rename_i h
    exact .inl ⟨h, rfl⟩
  · rename_i h
    exact .inr ⟨Nat.lt_of_not_le h, rfl⟩

/-- One byte taken from a keyed context leaves it legal and keyed. -/
theorem legalContext_readied_advance {k : Nat} (hk : 0 < k) {cx : CtrContext} (h : LegalContext k cx)
    (hi : cx.init = true) (hv : cx.ks.valid = true) :
    LegalContext k { readied k cx with offset := (readied k cx).offset + 1 } ∧ (readied k cx).init = true ∧
      (readied k cx).ks.valid = true := by
  have advance {d : CtrContext} (hd : LegalContext k d) (hdi : d.init = true)
      (hlt : d.offset < bufferSize k d.cipher) : LegalContext k { d with offset := d.offset + 1 } :=
    { empty := fun hn => by simp [hdi] at hn
      offset := hlt
      buffer := hd.buffer
      counter := hd.counter
      slot := hd.slot
      cipher := hd.cipher
      orientation := hd.orientation }
  obtain ⟨-, hr⟩ | ⟨hlt, hr⟩ := readied_cases k cx
  · rw [hr]
    exact ⟨advance (legalContext_refill h hi hv) hi (bufferSize_pos hk _), hi, hv⟩
  · rw [hr]
    exact ⟨advance h hi hlt, hi, hv⟩

/-- The stream leaves a keyed legal context legal. -/
theorem legalContext_ctrStream {k : Nat} (hk : 0 < k) (xs : List Byte) {cx : CtrContext} (h : LegalContext k cx)
    (hi : cx.init = true) (hv : cx.ks.valid = true) : LegalContext k (ctrStream k cx xs).2 := by
  induction xs generalizing cx with
  | nil => exact h
  | cons x xs ih =>
    obtain ⟨hnext, hni, hnv⟩ := legalContext_readied_advance hk h hi hv
    exact ih hnext hni hnv

/-! ### Counter operands -/

theorem beNat_append_singleton (b : List Byte) (x : Byte) : beNat (b ++ [x]) = beNat b * 256 + x.toNat := by
  simp [beNat]

theorem beNat_lt (b : List Byte) : beNat b < 256 ^ b.length := by
  induction b using List.reverseRecOn with
  | nil => exact Nat.one_pos
  | append_singleton b x ih =>
    rw [beNat_append_singleton, List.length_append, List.length_singleton, pow_succ]
    have hx : x.toNat < 256 := x.isLt
    omega

theorem length_counterOperand_le {c : Cipher} {nullp : Bool} {len : BitVec 9} (hlen : len.toNat ≤ blockSize c)
    (s : State) : (s.counterOperand c nullp len).length ≤ blockSize c := by
  unfold State.counterOperand
  split
  · simp
  · simp only [List.length_append, List.length_replicate, List.length_take]
    omega

/-- A counter operand of at most a block is in range (43_ctr.md R269, R270). -/
theorem beNat_counterOperand_lt {c : Cipher} {nullp : Bool} {len : BitVec 9}
    (hgood : badBlockOperand c nullp len = false) (s : State) :
    beNat (s.counterOperand c nullp len) < counterModulus c := by
  obtain ⟨-, hlen⟩ : (nullp && len != 0) = false ∧ len.toNat ≤ blockSize c := by
    simpa only [badBlockOperand, Bool.or_eq_false_iff, decide_eq_false_iff_not, not_lt] using hgood
  calc beNat (s.counterOperand c nullp len)
      < 256 ^ (s.counterOperand c nullp len).length := beNat_lt _
    _ ≤ 256 ^ blockSize c := Nat.pow_le_pow_right (by decide) (length_counterOperand_le hlen s)
    _ = counterModulus c := by rw [counterModulus, pow_mul, show 2 ^ 8 = 256 from rfl]

/-! ### One keystream for all lane counts (43_ctr.md R261, R262) -/

/-- `cx`, on `k` lanes, has given out `p` keystream bytes since it was `base` with none left: the bytes still in its
buffer are those of `base`'s keystream from `p` on, and its counter stands at the block past them. -/
structure StreamedFrom (k : Nat) (base : CtrContext) (p : Nat) (cx : CtrContext) : Prop where
  ks : cx.ks = base.ks
  cipher : cx.cipher = base.cipher
  offset : cx.offset ≤ bufferSize k base.cipher
  counter : ∃ q, p + (bufferSize k base.cipher - cx.offset) = q * blockSize base.cipher ∧
    cx.c ≡ base.c + q [MOD counterModulus base.cipher]
  bytes : ∀ j, cx.offset + j < bufferSize k base.cipher → cx.buf.getD (cx.offset + j) 0 = keystreamByte base (p + j)

/-- A context with no keystream left has given out none since itself. -/
theorem streamedFrom_exhausted {k : Nat} {cx : CtrContext} (h : cx.offset = bufferSize k cx.cipher) :
    StreamedFrom k cx 0 cx where
  ks := rfl
  cipher := rfl
  offset := h.le
  counter := ⟨0, by simp [h], rfl⟩
  bytes j hj := by omega

theorem getD_flatMap_range {α : Type} {f : Nat → List α} {n : Nat} (hf : ∀ j, (f j).length = n) (d : α) :
    ∀ {k i : Nat}, i < k * n → ((List.range k).flatMap f).getD i d = (f (i / n)).getD (i % n) d := by
  intro k
  induction k with
  | zero => intro i hi; omega
  | succ k ih =>
    intro i hi
    rw [List.range_succ, List.flatMap_append, List.flatMap_singleton]
    by_cases hlt : i < k * n
    · rw [List.getD_append _ _ _ _ (by rwa [length_flatMap_range hf]), ih hlt]
    · have hle : k * n ≤ i := Nat.le_of_not_lt hlt
      have hdiv : i / n = k := Nat.div_eq_of_lt_le hle hi
      rw [List.getD_append_right _ _ _ _ (by rwa [length_flatMap_range hf]), length_flatMap_range hf, hdiv]
      have hmod : i - k * n = i % n := by
        have hsplit := Nat.div_add_mod i n
        rw [hdiv, Nat.mul_comm] at hsplit
        omega
      rw [hmod]

/-- The keystream blocks of two counters that agree modulo `M` are the same. -/
theorem keystreamBlock_congr {a b : CtrContext} (hks : a.ks = b.ks) (hc : a.cipher = b.cipher) {v w : Nat}
    (h : v ≡ w [MOD counterModulus b.cipher]) : keystreamBlock a v = keystreamBlock b w := by
  rw [keystreamBlock, keystreamBlock, hks, hc, h]

theorem keystreamByte_eq (cx : CtrContext) (n : Nat) :
    keystreamByte cx n
      = (keystreamBlock cx (cx.c + n / blockSize cx.cipher)).getD (n % blockSize cx.cipher) 0 := rfl

/-- Keystream rests on the slot, the cipher and the counter alone. -/
theorem keystreamByte_congr {a b : CtrContext} (hks : a.ks = b.ks) (hc : a.cipher = b.cipher) (hn : a.c = b.c) :
    keystreamByte a = keystreamByte b := by
  funext n
  simp only [keystreamByte, hks, hc, hn]

/-- A refill puts the next bytes of the keystream into the buffer. -/
theorem streamedFrom_refill {k : Nat} {base cx : CtrContext} {p : Nat} (hc : base.ks.cipher = base.cipher)
    (h : StreamedFrom k base p cx) (hx : bufferSize k cx.cipher ≤ cx.offset) :
    StreamedFrom k base p (refill k cx) := by
  obtain ⟨hks, hcipher, hoffset, ⟨q, hq, hcount⟩, -⟩ := h
  have hbs := blockSize_pos base.cipher
  rw [hcipher] at hx
  have hp : p = q * blockSize base.cipher := by omega
  refine ⟨hks, hcipher, Nat.zero_le _, ⟨q + k, ?_, ?_⟩, fun j hj => ?_⟩
  · simp only [refill, bufferSize, hp, Nat.add_mul, Nat.sub_zero]
  · simp only [refill, hcipher]
    rw [← Nat.add_assoc]
    exact (Nat.mod_modEq _ _).trans (Nat.ModEq.add_right k hcount)
  · simp only [refill, Nat.zero_add] at hj ⊢
    have hlen (i : Nat) : (keystreamBlock cx (cx.c + i)).length = blockSize base.cipher := by
      rw [length_keystreamBlock (by rw [hks, hcipher, hc]), hcipher]
    have hblock : keystreamBlock cx (cx.c + j / blockSize base.cipher)
        = keystreamBlock base (base.c + (q + j / blockSize base.cipher)) :=
      keystreamBlock_congr hks hcipher (by rw [← Nat.add_assoc]; exact Nat.ModEq.add_right _ hcount)
    rw [getD_flatMap_range hlen 0 hj, hblock, keystreamByte_eq, hp, Nat.mul_comm q,
      Nat.mul_add_div hbs, Nat.mul_add_mod]

/-- One byte given out. -/
theorem streamedFrom_advance {k : Nat} {base cx : CtrContext} {p : Nat} (h : StreamedFrom k base p cx)
    (hlt : cx.offset < bufferSize k base.cipher) :
    StreamedFrom k base (p + 1) { cx with offset := cx.offset + 1 } := by
  obtain ⟨hks, hcipher, hoffset, ⟨q, hq, hcount⟩, hbytes⟩ := h
  refine ⟨hks, hcipher, hlt, ⟨q, ?_, hcount⟩, fun j hj => ?_⟩
  · dsimp only
    omega
  · dsimp only at hj ⊢
    rw [Nat.add_assoc, Nat.add_assoc]
    exact hbytes (1 + j) (by omega)

/-- The context that gives out byte `p` of the keystream. -/
theorem streamedFrom_readied {k : Nat} (hk : 0 < k) {base cx : CtrContext} {p : Nat}
    (hc : base.ks.cipher = base.cipher) (h : StreamedFrom k base p cx) :
    StreamedFrom k base p (readied k cx) ∧ (readied k cx).offset < bufferSize k base.cipher := by
  obtain ⟨hx, hr⟩ | ⟨hlt, hr⟩ := readied_cases k cx
  · rw [hr]
    exact ⟨streamedFrom_refill hc h hx, bufferSize_pos hk _⟩
  · rw [hr]
    exact ⟨h, h.cipher ▸ hlt⟩

/-- The stream XORs the input with the keystream of the context it began in, byte after byte. -/
theorem ctrStream_eq_keystream {k : Nat} (hk : 0 < k) {base : CtrContext} (hc : base.ks.cipher = base.cipher)
    (xs : List Byte) {p : Nat} {cx : CtrContext} (h : StreamedFrom k base p cx) :
    (ctrStream k cx xs).1 = xs.mapIdx fun i x => x ^^^ keystreamByte base (p + i) := by
  induction xs generalizing p cx with
  | nil => rfl
  | cons x xs ih =>
    obtain ⟨hr, hlt⟩ := streamedFrom_readied hk hc h
    have hhead : (readied k cx).buf.getD (readied k cx).offset 0 = keystreamByte base p := hr.bytes 0 hlt
    rw [ctrStream, List.mapIdx_cons]
    dsimp only
    rw [hhead, ih (streamedFrom_advance hr hlt)]
    simp only [Nat.add_zero, Nat.add_assoc, Nat.add_comm 1]

/-- Settles O50: both outputs are the input XORed with the one keystream that slot, cipher and counter fix. -/
theorem laneCountHiddenInOneStream : Obligations.LaneCountHiddenInOneStream := by
  intro m n a b xs hla hlb _ hv hcipher hks hcount ha hb
  have hac : a.ks.cipher = a.cipher := hla.cipher hv
  have hbc : b.ks.cipher = b.cipher := by rw [hks, hac, hcipher]
  rw [ctrStream_eq_keystream (lanes_count_pos m) hac xs (streamedFrom_exhausted ha),
    ctrStream_eq_keystream (lanes_count_pos n) hbc xs (streamedFrom_exhausted hb),
    keystreamByte_congr hks hcipher hcount]

end Sys2Proof.Machine
end

section
/-! PROOF. What a command can publish, said once for all commands, and what follows for every command: it completes,
it writes only its outputs, and it does not read what the host can change while it runs (20_memory.md R75, R78, R79,
60_exceptions.md R301, R307). -/

namespace Sys2Proof.Machine

/-! ### The checks that a command has passed -/

theorem blockKeyChecks_passed {s : State} {c : Cipher} :
    (∀ p ∈ blockKeyChecks s c, p.1 = false) ↔ s.bk.valid = true ∧ s.bk.cipher = c := by
  cases hv : s.bk.valid <;> simp [blockKeyChecks, hv]

theorem contextChecks_passed {s : State} {c : Cipher} :
    (∀ p ∈ contextChecks s c, p.1 = false) ↔ s.cx.init = true ∧ s.cx.cipher = c := by
  simp [contextChecks]

theorem passed_of_singleton {b : Bool} {e : CmdError} (h : ∀ p ∈ [(b, e)], p.1 = false) : b = false :=
  h _ (List.mem_singleton_self _)

theorem length_primBlock (f64 : Cells 4 → Cells 4) (f128 : Cells 8 → Cells 8) (fM : Cells 4 → Cells 4) (c : Cipher)
    (b : List Byte) : (primBlock f64 f128 fM c b).length = blockSize c := by
  cases c <;> simp [primBlock, blockSize]

theorem ne_mantis_of_isSkinny {c : Cipher} (h : c.isSkinny = true) : c ≠ .mantis := by
  rintro rfl
  contradiction

theorem eq_mantis_of_isMantis {c : Cipher} (h : c.isMantis = true) : c = .mantis := by
  cases c with
  | mantis => rfl
  | s64 | s128 => contradiction

/-! ### What a command publishes -/

/-- What a command `i` run on `s` can leave: an error alone; or for a key, block or engine command a new block key slot
or a block in BLOCK_OUT; or for a CTR command a new context, with CTR_ENCRYPT's bytes in DATA_OUT. A new slot or
context is legal where the old one was. -/
inductive Published (i : Instr) (s : State) : State → Prop where
  | error (e : CmdError) : Published i s (s.raise e)
  | slot (slot : KeySlot) (hi : ¬ IsCtrCommand i) (hlegal : LegalSlot s.bk → LegalSlot slot) :
      Published i s (succeeded { s with bk := slot })
  | block (y : List Byte) (hi : ¬ IsCtrCommand i) (hlen : y.length ≤ 16) : Published i s (succeeded (s.putBlockOut y))
  | context (cx : CtrContext) (hi : IsCtrCommand i)
      (hlegal : LegalContext s.cfg.lanes.count s.cx → LegalContext s.cfg.lanes.count cx) :
      Published i s (succeeded { s with cx := cx })
  | stream (y : List Byte) (cx : CtrContext) (hi : IsCtrCommand i) (hlen : y.length ≤ 256)
      (hlegal : LegalContext s.cfg.lanes.count s.cx → LegalContext s.cfg.lanes.count cx) :
      Published i s (succeeded { s.putDataOut y with cx := cx })

theorem published_of_command {i : Instr} {checks : List (Bool × CmdError)} {u s t : State}
    (h : command i checks u s = .next t)
    (hu : i.wellFormed = true → (∀ p ∈ checks, p.1 = false) → Published i s (succeeded u)) : Published i s t := by
  obtain ⟨e, -, rfl⟩ | ⟨hi, hc, rfl⟩ := command_cases h
  · exact .error e
  · exact hu hi hc

/-- A PRIM_* command's block fits BLOCK_OUT. -/
theorem published_of_primCommand {i : Instr} {f64 : Cells 4 → Cells 4} {f128 : Cells 8 → Cells 8}
    {fM : Cells 4 → Cells 4} {c : Cipher} {s t : State} (hi : ¬ IsCtrCommand i)
    (h : primCommand i (primBlock f64 f128 fM) c s = .next t) : Published i s t :=
  published_of_command h fun _ _ => .block _ hi ((length_primBlock f64 f128 fM c _).le.trans (blockSize_le c))

/-- The CTR key commands: the checks passed are those of the context, and the loaded slot is legal. -/
theorem published_rekeyed {i : Instr} {s : State} {c : Cipher} {slot : KeySlot} (hi : IsCtrCommand i)
    (hok : ∀ p ∈ contextChecks s c, p.1 = false)
    (hslot : LegalContext s.cfg.lanes.count s.cx → LegalSlot slot ∧ slot.cipher = c ∧ slot.mode = false) :
    Published i s (succeeded { s with cx := exhausted s.cfg.lanes.count { s.cx with ks := slot } }) := by
  obtain ⟨hinit, hc⟩ := contextChecks_passed.mp hok
  refine .context _ hi fun hl => ?_
  obtain ⟨hlegal, hcipher, hmode⟩ := hslot hl
  exact legalContext_rekeyed hl hinit hlegal (hcipher.trans hc.symm) hmode

theorem published_setTweak {c : Cipher} {nullp : Bool} {len : BitVec 9} {s t : State}
    (h : exec (.setTweak c nullp len) s = .next t) : Published (.setTweak c nullp len) s t :=
  published_of_command h fun _ hok => by
    obtain ⟨hv, hc⟩ := blockKeyChecks_passed.mp (List.forall_mem_append.mp hok).1
    exact .slot _ id fun hl => legalSlot_retweakSlot hv hc hl _

theorem published_swapModes {c : Cipher} {s t : State} (h : exec (.swapModes c) s = .next t) :
    Published (.swapModes c) s t :=
  published_of_command h fun hwf hok => by
    obtain ⟨hv, hc⟩ := blockKeyChecks_passed.mp hok
    exact .slot _ id fun hl => legalSlot_swapSlot hv (hc.trans (eq_mantis_of_isMantis hwf)) hl

/-- A block command's result under the loaded key fits BLOCK_OUT. -/
theorem published_of_blockCommand {i : Instr} {c : Cipher} {y : List Byte} {s t : State} (hi : ¬ IsCtrCommand i)
    (hy : y.length ≤ 16) (h : command i (blockKeyChecks s c) (s.putBlockOut y) s = .next t) : Published i s t :=
  published_of_command h fun _ _ => .block y hi hy

theorem published_ctrSetKey {c : Cipher} {nullp : Bool} {len : BitVec 9} {rounds : BitVec 4} {s t : State}
    (h : exec (.ctrSetKey c nullp len rounds) s = .next t) : Published (.ctrSetKey c nullp len rounds) s t :=
  published_of_command h fun _ hok => by
    obtain ⟨hctx, hparam⟩ := List.forall_mem_append.mp hok
    exact published_rekeyed trivial hctx fun _ =>
      ⟨legalSlot_loadedSlot (passed_of_singleton hparam) s false, loadedSlot_cipher s c len rounds false,
        loadedSlot_mode_false s c len rounds⟩

theorem published_ctrSetTweakedKey {c : Cipher} {nullp : Bool} {len : BitVec 9} {s t : State}
    (h : exec (.ctrSetTweakedKey c nullp len) s = .next t) : Published (.ctrSetTweakedKey c nullp len) s t :=
  published_of_command h fun hwf hok => by
    obtain ⟨hctx, hparam⟩ := List.forall_mem_append.mp hok
    exact published_rekeyed trivial hctx fun _ =>
      ⟨legalSlot_loadedTweakedSlot (ne_mantis_of_isSkinny hwf) (passed_of_singleton hparam) s, rfl, rfl⟩

theorem published_ctrSetTweak {c : Cipher} {nullp : Bool} {len : BitVec 9} {s t : State}
    (h : exec (.ctrSetTweak c nullp len) s = .next t) : Published (.ctrSetTweak c nullp len) s t :=
  published_of_command h fun _ hok => by
    obtain ⟨hctx, hrest⟩ := List.forall_mem_append.mp hok
    have hv : s.cx.ks.valid = true := by simpa using (List.forall_mem_cons.mp hrest).1
    refine published_rekeyed trivial hctx fun hl => ?_
    have hc : s.cx.ks.cipher = c := (hl.cipher hv).trans (contextChecks_passed.mp hctx).2
    have hpub := retweakSlot_public s.cx.ks c (s.tweakOperand c nullp len)
    exact ⟨legalSlot_retweakSlot hv hc hl.slot _, hpub.cipher.trans hc, hpub.mode.trans hl.orientation⟩

theorem published_ctrSetCounter {c : Cipher} {nullp : Bool} {len : BitVec 9} {s t : State}
    (h : exec (.ctrSetCounter c nullp len) s = .next t) : Published (.ctrSetCounter c nullp len) s t :=
  published_of_command h fun _ hok => by
    obtain ⟨hctx, hparam⟩ := List.forall_mem_append.mp hok
    obtain ⟨hinit, rfl⟩ := contextChecks_passed.mp hctx
    exact .context _ trivial fun hl =>
      legalContext_recounted hl hinit (beNat_counterOperand_lt (passed_of_singleton hparam) s)

theorem published_ctrEncrypt {c : Cipher} {nullp : Bool} {len : BitVec 9} {s t : State}
    (h : exec (.ctrEncrypt c nullp len) s = .next t) : Published (.ctrEncrypt c nullp len) s t :=
  published_of_command h fun _ hok => by
    obtain ⟨hctx, hrest⟩ := List.forall_mem_append.mp hok
    obtain ⟨hinit, -⟩ := contextChecks_passed.mp hctx
    obtain ⟨hv, -, hlen⟩ : s.cx.ks.valid = true ∧ nullp = false ∧ len.toNat ≤ streamBytes := by
      simpa using hrest
    refine .stream _ _ trivial ?_ fun hl => legalContext_ctrStream (lanes_count_pos _) _ hl hinit hv
    rw [length_ctrStream]
    exact (List.length_take_le _ _).trans hlen

/-- Everything a command can publish. -/
theorem exec_published {i : Instr} {s t : State} (h : exec i s = .next t) : Published i s t := by
  cases i with
  | setKey c nullp len rounds mode =>
    exact published_of_command h fun _ hok =>
      .slot _ id fun _ => legalSlot_loadedSlot (passed_of_singleton hok) s mode
  | setTweakedKey c nullp len =>
    exact published_of_command h fun hwf hok => .slot _ id fun _ =>
      legalSlot_loadedTweakedSlot (ne_mantis_of_isSkinny hwf) (passed_of_singleton hok) s
  | setTweak c nullp len => exact published_setTweak h
  | swapModes c => exact published_swapModes h
  | clearKey c => exact published_of_command (checks := []) h fun _ _ => .slot _ id fun _ => legalSlot_zeroSlot
  | encryptBlock c =>
    exact published_of_blockCommand id ((length_blockEncrypt s.bk _).le.trans (blockSize_le _)) h
  | decryptBlock c =>
    exact published_of_blockCommand id ((length_skinnyDecrypt s.bk _).le.trans (blockSize_le _)) h
  | cryptTweaked c => exact published_of_blockCommand id (by simp) h
  | ctrInit c =>
    exact published_of_command (checks := []) h fun _ _ => .context _ trivial fun _ => legalContext_initContext _ c
  | ctrSetKey c nullp len rounds => exact published_ctrSetKey h
  | ctrSetTweakedKey c nullp len => exact published_ctrSetTweakedKey h
  | ctrSetTweak c nullp len => exact published_ctrSetTweak h
  | ctrSetCounter c nullp len => exact published_ctrSetCounter h
  | ctrEncrypt c nullp len => exact published_ctrEncrypt h
  | ctrCleanup c =>
    exact published_of_command (checks := []) h fun _ _ => .context _ trivial fun _ => legalContext_zeroContext _
  | primSbox c | primInvSbox c | primShiftRows c | primInvShiftRows c | primMixColumns c | primInvMixColumns c
  | primTweakPerm c | primInvTweakPerm c | primLfsr2 c | primLfsr3 c => exact published_of_primCommand id h

/-! ### Every command completes -/

/-- Settles O8: every command is checks and updates that leave STATUS, and both its ways out complete. -/
theorem everyCommandCompletes : Obligations.EveryCommandCompletes := by
  intro i s
  obtain ⟨checks, u, hexec, hstatus, -⟩ := exec_eq_command i s
  obtain ⟨e, hc⟩ | ⟨hc, -⟩ := command_next i checks u s
  · obtain ⟨hlow, hhigh⟩ := errorCode_range e
    have hne : errorCode (some e) ≠ 0 := fun h0 => by simp [h0] at hlow
    exact ⟨s.raise e, hexec.trans hc, rfl, rfl, rfl, rfl, by simpa using hne, hhigh⟩
  · exact ⟨u.complete none, hexec.trans hc, rfl, rfl, rfl, by simp [hstatus], rfl, by simp [errorCode]⟩

/-! ### Commands write only their outputs -/

theorem read_putDataOut_other (s : State) {y : List Byte} (hy : y.length ≤ 256) {a : Nat}
    (ha : a < 0x200 ∨ 0x300 ≤ a) : (s.putDataOut y).mem.read a = s.mem.read a := by
  rw [putDataOut_mem, read_writeBytes, if_neg (by omega)]

/-- Settles O57: one case for each thing a command can publish. -/
theorem commandsWriteOnlyTheirOutputs : Obligations.CommandsWriteOnlyTheirOutputs := by
  intro i s t h
  cases exec_published h with
  | error e => exact ⟨⟨rfl, rfl, rfl, rfl, rfl⟩, fun _ _ => rfl, fun _ => ⟨rfl, fun _ _ _ => rfl⟩,
      fun _ => ⟨rfl, fun _ _ _ => rfl⟩⟩
  | slot slot hi => exact ⟨⟨rfl, rfl, rfl, rfl, rfl⟩, fun _ _ => rfl, fun hctr => absurd hctr hi,
      fun _ => ⟨rfl, fun _ _ _ => rfl⟩⟩
  | block y hi hlen =>
    have hother := read_putBlockOut_other s y hlen
    exact ⟨⟨rfl, rfl, rfl, rfl, rfl⟩, fun a ha => hother a (by unfold CoreWritten at ha; omega),
      fun hctr => absurd hctr hi, fun _ => ⟨rfl, fun a ha _ => hother a (by omega)⟩⟩
  | context cx hi => exact ⟨⟨rfl, rfl, rfl, rfl, rfl⟩, fun _ _ => rfl, fun _ => ⟨rfl, fun _ _ _ => rfl⟩,
      fun hctr => absurd hi hctr⟩
  | stream y cx hi hlen =>
    have hother {a : Nat} := read_putDataOut_other s hlen (a := a)
    exact ⟨⟨rfl, rfl, rfl, rfl, rfl⟩, fun a ha => hother (by unfold CoreWritten at ha; omega),
      fun _ => ⟨rfl, fun a _ ha => hother (by omega)⟩, fun hctr => absurd hi hctr⟩

end Sys2Proof.Machine
end

section
/-! PROOF. The map of the window as the bus sees it, and what an access that is not refused does (20_memory.md R61-R66,
R79, R80, 60_exceptions.md R311). -/

namespace Sys2Proof.Machine

/-! ### Which accesses are not refused -/

/-- An access is not refused just when it is an aligned word at a mapped offset, and no write to a read-only one. -/
theorem accessFault_eq_none {a : Access} :
    accessFault a = none ↔ a.width = .bits32 ∧ a.offset % 4 = 0 ∧ regionAt a.offset ≠ .reserved ∧
      (a.isWrite = true → (regionAt a.offset).readOnly = false) := by
  unfold accessFault
  split_ifs with hword hmapped hwrite
  · simp only [false_iff]
    tauto
  · simp [hmapped]
  · simp [hwrite]
  · simp only [true_iff]
    obtain ⟨hwidth, haligned⟩ := not_or.mp hword
    exact ⟨not_not.mp hwidth, not_not.mp haligned, hmapped, by simpa using hwrite⟩

/-! ### The buffers' offsets -/

theorem bufferAt_isSome {a : Nat} :
    (bufferAt a).isSome = true ↔
      (0x040 ≤ a ∧ a < 0x070) ∨ (0x080 ≤ a ∧ a < 0x0C0) ∨ (0x100 ≤ a ∧ a < 0x300) := by
  rcases bufferAt_cases a with ⟨h1, h2, h⟩ | ⟨h1, h2, h⟩ | ⟨h1, h2, h⟩ | ⟨h1, h2, h⟩ | ⟨h1, h2, h⟩ | ⟨h1, h2, h⟩ |
    ⟨h1, h2, h⟩ | ⟨h1, h⟩ <;> simp [h] <;> omega

theorem regionAt_of_bufferAt {a : Nat} {b : Buffer} (h : bufferAt a = some b) : regionAt a = .buffer b := by
  have ha := bufferAt_isSome.mp (Option.isSome_of_eq_some h)
  have hge : 0x040 ≤ a := by omega
  simp only [regionAt, h, show ¬ a < 0x004 by omega, show ¬ a < 0x008 by omega, show ¬ a < 0x00C by omega,
    show ¬ a < 0x010 by omega, show ¬ a < 0x014 by omega, show ¬ a < 0x018 by omega, if_false]

/-- A register the host may write is CMD or lies in a buffer. -/
theorem bufferAt_isSome_of_writable {a : Nat} (hmapped : regionAt a ≠ .reserved)
    (hwritable : (regionAt a).readOnly = false) (hcmd : regionAt a ≠ .cmd) : (bufferAt a).isSome = true := by
  rcases regionAt_cases a with ⟨-, h⟩ | ⟨-, -, h⟩ | ⟨-, -, h⟩ | ⟨-, -, h⟩ | ⟨-, -, h⟩ | ⟨-, -, h⟩ | ⟨-, h⟩
  case inr.inr.inr.inr.inr.inr =>
    cases hb : bufferAt a with
    | none => exact absurd (by rw [h, hb]) hmapped
    | some b => rfl
  all_goals simp [h, Region.readOnly] at hwritable hcmd

/-! ### Access turns -/

theorem step_of_access {s : State} {a : Access} {rest : List Turn} (h : s.schedule = .access a :: rest) :
    step s = { s with schedule := rest }.busAccess a := by
  simp [step, State.turn, State.popTurn, h]

theorem step_of_core {s : State} (h : s.turn = .core) : step s = { s with schedule := s.schedule.tail }.coreTurn := by
  simp [step, State.popTurn, h]

theorem step_of_reset {s : State} {rest : List Turn} (h : s.schedule = .reset :: rest) :
    step s = .next { s with schedule := rest }.platformReset := by
  simp [step, State.turn, State.popTurn, h]

theorem busAccess_of_allowed {a : Access} (h : accessFault a = none) (s : State) :
    s.busAccess a = .next (s.performAccess a) := by
  simp [State.busAccess, h]

end Sys2Proof.Machine
end

section
/-! PROOF. The invariant holds after reset and every step keeps it (10_state.md R23, R36, R37, R40-R50, 60_exceptions.md
R302). -/

namespace Sys2Proof.Machine

/-! ### STATUS -/

/-- Completion leaves a legal STATUS, whatever it was. -/
theorem legalStatus_completed (q : Status) (e : Option CmdError) : LegalStatus (q.completed e) where
  running := nofun
  fresh := nofun
  verdict _ := by cases e with
    | none => rfl
    | some e => cases e <;> rfl
  codes := by cases e with
    | none => exact Nat.zero_le _
    | some e => exact (errorCode_range e).2
  overrun _ := .inr rfl

theorem legalStatus_acceptedStatus : LegalStatus acceptedStatus where
  running _ := rfl
  fresh _ := ⟨rfl, rfl⟩
  verdict := nofun
  codes := by decide
  overrun := nofun

theorem legalStatus_zeroStatus : LegalStatus zeroStatus where
  running := nofun
  fresh _ := ⟨rfl, rfl⟩
  verdict := nofun
  codes := by decide
  overrun := nofun

theorem legalStatus_overran {q : Status} (h : LegalStatus q) (hb : q.busy = true) : LegalStatus q.overran where
  running := h.running
  fresh := h.fresh
  verdict := h.verdict
  codes := h.codes
  overrun _ := .inl hb

/-! ### The invariant of the operations -/

/-- The invariant says nothing of the model's own fields. -/
theorem State.Inv.with_own_fields {s : State} (h : s.Inv) (sched : List Turn) (r : Option Response) (d : Nat) :
    State.Inv { s with schedule := sched, response := r, draws := d } :=
  ⟨h.memory, h.sequencer, h.busyBit, h.status, h.latch, h.blockKey, h.context⟩

theorem inv_platformReset (s : State) : s.platformReset.Inv where
  memory := rfl
  sequencer := rfl
  busyBit := rfl
  status := legalStatus_zeroStatus
  latch := nofun
  blockKey := legalSlot_zeroSlot
  context := legalContext_zeroContext _

/-- Settles O6: reset of the reset state is the reset state. -/
theorem resetMeetsInvariant : Obligations.ResetMeetsInvariant := inv_platformReset State.reset

/-- Completion makes STATUS and the sequencer agree, whatever they were. -/
theorem inv_complete {u : State} (hmem : u.mem.wf = true) (hbk : LegalSlot u.bk)
    (hcx : LegalContext u.cfg.lanes.count u.cx) (e : Option CmdError) : (u.complete e).Inv where
  memory := hmem
  sequencer := rfl
  busyBit := rfl
  status := legalStatus_completed _ e
  latch := nofun
  blockKey := hbk
  context := hcx

theorem inv_accept {s : State} (h : s.Inv) (w : Word) : (s.accept w).Inv where
  memory := h.memory
  sequencer := rfl
  busyBit := rfl
  status := legalStatus_acceptedStatus
  latch _ hl := (Option.some.inj hl).symm
  blockKey := h.blockKey
  context := h.context

theorem inv_dropped_write {s : State} (h : s.Inv) (hb : s.seq.busy = true) :
    State.Inv { s with status := s.status.overran } where
  memory := h.memory
  sequencer := h.sequencer
  busyBit := h.busyBit
  status := legalStatus_overran h.status (h.busyBit.trans hb)
  latch := h.latch
  blockKey := h.blockKey
  context := h.context

/-- While idle no Latch is pending, so that new bytes need only be canonical. -/
theorem inv_stored {s : State} (h : s.Inv) (hidle : s.seq.busy = false) {m : Memory} (hm : m.wf = true) :
    State.Inv { s with mem := m } where
  memory := hm
  sequencer := h.sequencer
  busyBit := h.busyBit
  status := h.status
  latch l hl := by
    have hnone : s.seq.pending.isSome = false := h.sequencer.symm.trans hidle
    have hsome : s.seq.pending = some l := hl
    rw [hsome] at hnone
    exact nomatch hnone
  blockKey := h.blockKey
  context := h.context

/-! ### The invariant of host accesses -/

theorem inv_busRead {s : State} (h : s.Inv) (a : Nat) : (s.busRead a).Inv := by
  unfold State.busRead
  split
  · exact h.with_own_fields _ _ _
  · exact h.with_own_fields _ _ _

/-- The four bytes of an aligned word in a buffer lie in that buffer. -/
theorem wf_writeBytes_wordBytes {m : Memory} (hm : m.wf = true) {a : Nat} (haligned : a % 4 = 0)
    (ha : (bufferAt a).isSome = true) (v : Word) : (m.writeBytes a (wordBytes v)).wf = true := by
  refine wf_writeBytes _ hm fun b hle hlt => bufferAt_isSome.mpr ?_
  have hlow := bufferAt_isSome.mp ha
  have hlt4 : b < a + 4 := hlt
  omega

theorem inv_busWrite {s : State} (h : s.Inv) {w : Width} {a : BitVec 12} {v : Word}
    (hok : accessFault (.write w a v) = none) : (s.busWrite a.toNat v).Inv := by
  obtain ⟨-, haligned, hmapped, hwritable⟩ := accessFault_eq_none.mp hok
  have hanswered : State.Inv { s with response := some .written } := h.with_own_fields s.schedule _ s.draws
  unfold State.busWrite
  dsimp only
  split_ifs with hbusy hcmd
  · exact inv_dropped_write hanswered hbusy
  · exact inv_accept hanswered v
  · exact inv_stored hanswered (Bool.eq_false_iff.mpr hbusy) (wf_writeBytes_wordBytes h.memory haligned
      (bufferAt_isSome_of_writable hmapped (hwritable rfl) hcmd) v)

theorem inv_busAccess {s t : State} {a : Access} (h : s.Inv) (ht : s.busAccess a = .next t) : t.Inv := by
  obtain ⟨_, -, -, hout⟩ | ⟨_, -, -, hout⟩ | ⟨hok, hout⟩ := busAccess_cases s a
  · exact nomatch hout.symm.trans ht
  · obtain rfl := Host.Outcome.next.inj (hout.symm.trans ht)
    exact h.with_own_fields _ _ _
  · obtain rfl := Host.Outcome.next.inj (hout.symm.trans ht)
    cases a with
    | read w a => exact inv_busRead h a.toNat
    | write w a v => exact inv_busWrite h hok

/-! ### The invariant of commands -/

theorem wf_putBlockOut {s : State} (hm : s.mem.wf = true) {y : List Byte} (hy : y.length ≤ 16) :
    (s.putBlockOut y).mem.wf = true := by
  rw [putBlockOut_mem]
  refine wf_writeBytes _ hm fun b hle hlt => bufferAt_isSome.mpr ?_
  rw [List.length_append, List.length_replicate] at hlt
  omega

theorem wf_putDataOut {s : State} (hm : s.mem.wf = true) {y : List Byte} (hy : y.length ≤ 256) :
    (s.putDataOut y).mem.wf = true := by
  rw [putDataOut_mem]
  exact wf_writeBytes _ hm fun b hle hlt => bufferAt_isSome.mpr (by omega)

theorem inv_exec {i : Instr} {s t : State} (h : s.Inv) (ht : exec i s = .next t) : t.Inv := by
  cases exec_published ht with
  | error e => exact inv_complete h.memory h.blockKey h.context (some e)
  | slot slot hi hlegal => exact inv_complete (u := { s with bk := slot }) h.memory (hlegal h.blockKey) h.context none
  | block y hi hlen => exact inv_complete (wf_putBlockOut h.memory hlen) h.blockKey h.context none
  | context cx hi hlegal => exact inv_complete (u := { s with cx := cx }) h.memory h.blockKey (hlegal h.context) none
  | stream y cx hi hlen hlegal =>
    exact inv_complete (u := { s.putDataOut y with cx := cx }) (wf_putDataOut h.memory hlen) h.blockKey
      (hlegal h.context) none

/-- Settles O7: one case for each kind of turn. -/
theorem stepKeepsInvariant : Obligations.StepKeepsInvariant := by
  intro s t h ht
  have hpop : s.popTurn.Inv := h.with_own_fields s.schedule.tail s.response s.draws
  obtain ⟨a, -, hs⟩ | ⟨-, -, hs⟩ | ⟨l, i, -, -, -, hs⟩ | ⟨l, why, -, -, -, hs⟩ | ⟨-, hs⟩ := step_cases s
  case inl => exact inv_busAccess hpop (hs.symm.trans ht)
  case inr.inr.inl => exact inv_exec hpop (hs.symm.trans ht)
  all_goals obtain rfl := Host.Outcome.next.inj (hs.symm.trans ht)
  case inr.inl => exact hpop
  case inr.inr.inr.inl => exact inv_complete hpop.memory hpop.blockKey hpop.context (some .illegal)
  case inr.inr.inr.inr => exact inv_platformReset s.popTurn

end Sys2Proof.Machine
end

section
/-! PROOF. What the host sees and what it can change: accepted commands, reads, the reset turn, the command in flight,
and the secrets no answer shows (10_state.md R22, R35, R37, R44, R50; 20_memory.md R65, R78-R80). -/

namespace Sys2Proof.Machine

/-! ### The core's turn -/

/-- Settles O5: the core's turn looks at the pending Latch alone. -/
theorem stepRunsPendingCommand : Obligations.StepRunsPendingCommand := by
  intro s hcore
  constructor
  · intro l i hl hd
    simp [step_of_core hcore, State.coreTurn, State.fetch, hl, hd]
  · intro hnone
    simp [step_of_core hcore, State.coreTurn, State.fetch, hnone]

/-! ### Acceptance -/

/-- A buffer's copy in a Latch holds the buffer's bytes. -/
theorem getD_bufferBytes (m : Memory) (b : Buffer) {i : Nat} (hi : i < b.size) :
    (bufferBytes m b).getD i 0 = m.read (b.base + i) := getD_readBytes m _ _ i hi

/-- Settles O12: the write is not refused, and what an idle core does with it is `accept`. -/
theorem idleCommandWriteAccepts : Obligations.IdleCommandWriteAccepts := by
  intro s v rest hs hidle
  have hok : accessFault (.write .bits32 0x004 v) = none :=
    accessFault_eq_none.mpr ⟨rfl, (by decide : (0x004#12).toNat % 4 = 0), (by decide : regionAt 0x004 ≠ .reserved),
      fun _ => (by decide : (regionAt 0x004).readOnly = false)⟩
  have hwrite (t : State) (ht : t.seq.busy = false) :
      t.performAccess (.write .bits32 0x004 v) = { t with response := some .written }.accept v := by
    simp [State.performAccess, State.busWrite, ht, regionAt]
  refine ⟨takeLatch s.mem v, ?_, rfl, takeLatch_sized s.mem v, fun i hi => getD_bufferBytes s.mem .key hi,
    fun i hi => getD_bufferBytes s.mem .tweak hi, fun i hi => getD_bufferBytes s.mem .counter hi,
    fun i hi => getD_bufferBytes s.mem .blockIn hi, fun i hi => getD_bufferBytes s.mem .dataIn hi⟩
  rw [step_of_access hs, busAccess_of_allowed hok, hwrite { s with schedule := rest } hidle]
  rfl

/-! ### Reads -/

/-- An aligned read of a mapped offset gives its word and changes nothing else, except while busy where the core may be
writing. -/
theorem step_read_eq_word {s : State} {a : BitVec 12} {rest : List Turn}
    (hs : s.schedule = .access (.read .bits32 a) :: rest) (h4 : a.toNat % 4 = 0)
    (hmapped : regionAt a.toNat ≠ .reserved) (hfixed : (s.seq.busy && (regionAt a.toNat).freeWhileBusy) = false) :
    step s = .next { s with schedule := rest, response := some (.data (s.readWord a.toNat)) } := by
  have hok : accessFault (.read .bits32 a) = none := accessFault_eq_none.mpr ⟨rfl, h4, hmapped, nofun⟩
  rw [step_of_access hs, busAccess_of_allowed hok]
  simp only [State.performAccess, State.busRead, hfixed]
  rfl

theorem readWord_of_buffer {a : Nat} {b : Buffer} (h : regionAt a = .buffer b) (s : State) :
    s.readWord a = s.mem.readWord a := by
  simp only [State.readWord, h]

/-- A read of a buffer gives its four bytes, the low one at the lowest offset (20_memory.md R65). -/
theorem step_read_buffer {s : State} {a : BitVec 12} {rest : List Turn} {b : Buffer}
    (hs : s.schedule = .access (.read .bits32 a) :: rest) (h4 : a.toNat % 4 = 0) (hb : bufferAt a.toNat = some b)
    (hfixed : s.seq.busy = false ∨ b.hostWritable = true) :
    ∃ v : Word, step s = .next { s with schedule := rest, response := some (.data v) } ∧
      ∀ k < 4, v.extractLsb' (8 * k) 8 = s.mem.read (a.toNat + k) := by
  have hr : regionAt a.toNat = .buffer b := regionAt_of_bufferAt hb
  refine ⟨s.mem.readWord a.toNat, ?_, fun k hk => readWord_byte s.mem a.toNat k hk⟩
  rw [step_read_eq_word hs h4 (by simp [hr]) (by rcases hfixed with h | h <;> simp [hr, Region.freeWhileBusy, h]),
    readWord_of_buffer hr]

/-- CMD apart, what the host may write is the five input buffers. -/
theorem bufferAt_of_hostWritten {a : Nat} (h4 : a % 4 = 0) (hw : HostWritten a) (hne : a ≠ 0x004) :
    ∃ b, bufferAt a = some b ∧ b.hostWritable = true := by
  unfold HostWritten at hw
  rcases bufferAt_cases a with h | h | h | h | h | h | h | h
  case inl | inr.inl | inr.inr.inl | inr.inr.inr.inl | inr.inr.inr.inr.inr.inl =>
    obtain ⟨-, -, hb⟩ := h
    exact ⟨_, hb, rfl⟩
  all_goals omega

theorem bufferAt_of_coreWritten {a : Nat} (hw : CoreWritten a) : ∃ b, bufferAt a = some b :=
  Option.isSome_iff_exists.mp (bufferAt_isSome.mpr (by unfold CoreWritten at hw; omega))

theorem toNat_capsWord (cfg : Config) : (capsWord cfg).toNat = cfg.lanes.count + 256 * 256 := by
  unfold capsWord
  cases cfg.lanes <;> decide

/-- Settles O15: these registers are never free while busy, nor are the host-written buffers. -/
theorem stableReadsReturnRegisters : Obligations.StableReadsReturnRegisters := by
  intro s a rest hs h4
  constructor
  · rintro v (⟨rfl, rfl⟩ | ⟨rfl, rfl⟩ | ⟨rfl, rfl⟩ | ⟨rfl, hv⟩)
    · exact step_read_eq_word hs h4 (by decide) (Bool.and_false _)
    · exact step_read_eq_word hs h4 (by decide) (Bool.and_false _)
    · exact step_read_eq_word hs h4 (by decide) (Bool.and_false _)
    · obtain rfl : v = capsWord s.cfg := BitVec.eq_of_toNat_eq (hv.trans (toNat_capsWord s.cfg).symm)
      exact step_read_eq_word hs h4 (by decide) (Bool.and_false _)
  · intro hw hne
    obtain ⟨b, hb, hhost⟩ := bufferAt_of_hostWritten h4 hw fun h => hne (BitVec.eq_of_toNat_eq h)
    exact step_read_buffer hs h4 hb (.inr hhost)

/-- Settles O16: while idle no read is free. -/
theorem idleReadsReturnOutputs : Obligations.IdleReadsReturnOutputs := by
  intro s a rest hs h4 hidle
  have hfixed : (s.seq.busy && (regionAt a.toNat).freeWhileBusy) = false := by rw [hidle, Bool.false_and]
  refine ⟨?_, ?_, fun hw => ?_⟩
  · rintro rfl
    exact step_read_eq_word hs h4 (by decide) hfixed
  · rintro rfl
    exact step_read_eq_word hs h4 (by decide) hfixed
  · obtain ⟨b, hb⟩ := bufferAt_of_coreWritten hw
    exact step_read_buffer hs h4 hb (.inl hidle)

/-! ### Reset -/

theorem holdsResetValues_platformReset (s : State) : HoldsResetValues s.platformReset where
  id := rfl
  cmd := rfl
  status := (by decide : zeroStatus.word = 0)
  keyinfo := rfl
  ctrinfo := rfl
  caps := toNat_capsWord s.cfg
  buffers _ := rfl
  seq := rfl
  bk := rfl
  cxFlags := ⟨rfl, rfl, rfl, rfl, rfl⟩
  cxBuf _ hb := List.eq_of_mem_replicate hb
  slotFields := by decide

/-- Settles O21: a reset turn is `platformReset`, and State.reset is what that leaves of itself. -/
theorem resetLeavesResetValues : Obligations.ResetLeavesResetValues :=
  ⟨holdsResetValues_platformReset State.reset, fun _ _ hs =>
    ⟨_, step_of_reset hs, holdsResetValues_platformReset _, rfl, rfl⟩⟩

/-! ### What a command does not read -/

/-- `s` with another STATUS, bus answer and count of draws: all that a host access can change while a command is in
flight. -/
def State.withHostFields (s : State) (q : Status) (r : Option Response) (d : Nat) : State :=
  { s with status := q, response := r, draws := d }

/-- `t`, which a command left, as the command leaves it when it began with STATUS `q`: OVERRUN is `q`'s. -/
def State.withHostResult (t : State) (q : Status) (r : Option Response) (d : Nat) : State :=
  t.withHostFields { t.status with overrun := q.overrun } r d

/-- Checks and updates that do not look at these fields lead to the same result beside them. -/
theorem command_withHostFields {i : Instr} {checks : List (Bool × CmdError)} {u s t : State} {q : Status}
    {r : Option Response} {d : Nat} (h : command i checks u s = .next t) :
    command i checks (u.withHostFields q r d) (s.withHostFields q r d) = .next (t.withHostResult q r d) := by
  unfold command at h ⊢
  split at h
  · obtain rfl := Host.Outcome.next.inj h
    rfl
  · obtain rfl := Host.Outcome.next.inj h
    rfl

/-- No command looks at STATUS, the bus answer or the count of draws. -/
theorem exec_withHostFields {i : Instr} {s t : State} (q : Status) (r : Option Response) (d : Nat)
    (h : exec i s = .next t) : exec i (s.withHostFields q r d) = .next (t.withHostResult q r d) := by
  cases i with
  | clearKey | ctrInit | ctrCleanup | primSbox | primInvSbox | primShiftRows | primInvShiftRows | primMixColumns
  | primInvMixColumns | primTweakPerm | primInvTweakPerm | primLfsr2 | primLfsr3 =>
    simp only [exec, execClearKey, execCtrInit, execCtrCleanup, execPrimSbox, execPrimInvSbox, execPrimShiftRows,
      execPrimInvShiftRows, execPrimMixColumns, execPrimInvMixColumns, execPrimTweakPerm, execPrimInvTweakPerm,
      execPrimLfsr2, execPrimLfsr3, primCommand] at h ⊢
    -- With no checks `command` would be evaluated against the goal; from `h` alone it is read as it stands.
    have hw := command_withHostFields (q := q) (r := r) (d := d) h
    exact hw
  | setKey | setTweakedKey | setTweak | swapModes | encryptBlock | decryptBlock | cryptTweaked | ctrSetKey
  | ctrSetTweakedKey | ctrSetTweak | ctrSetCounter | ctrEncrypt => exact command_withHostFields h

/-- Settles O58: the bus answer and the count of draws, which no command changes, are kept beside the new STATUS. -/
theorem commandsIgnoreStatus : Obligations.CommandsIgnoreStatus := by
  intro i s t q h
  obtain ⟨⟨-, -, -, hresponse, hdraws⟩, -⟩ := commandsWriteOnlyTheirOutputs i s t h
  have ht : t.withHostResult q s.response s.draws = { t with status := { t.status with overrun := q.overrun } } := by
    rw [← hresponse, ← hdraws]
    rfl
  exact ht ▸ exec_withHostFields q s.response s.draws h

/-- While a command is in flight an access changes STATUS, the bus answer and the count of draws at most. -/
theorem busAccess_of_busy {s s' : State} {a : Access} (hbusy : s.seq.busy = true) (h : s.busAccess a = .next s') :
    ∃ q r d, s' = s.withHostFields q r d := by
  obtain ⟨_, -, -, hout⟩ | ⟨_, -, -, hout⟩ | ⟨-, hout⟩ := busAccess_cases s a
  · exact nomatch hout.symm.trans h
  · obtain rfl := Host.Outcome.next.inj (hout.symm.trans h)
    exact ⟨_, _, _, rfl⟩
  · obtain rfl := Host.Outcome.next.inj (hout.symm.trans h)
    cases a with
    | read w a =>
      simp only [State.performAccess, State.busRead]
      split
      · exact ⟨_, _, _, rfl⟩
      · exact ⟨s.status, some (.data (s.readWord a.toNat)), s.draws, rfl⟩
    | write w a v =>
      simp only [State.performAccess, State.busWrite, hbusy, if_true]
      exact ⟨_, _, _, rfl⟩

/-- Settles O60: the access changes only fields that no command looks at. -/
theorem hostCannotChangeCommandInFlight : Obligations.HostCannotChangeCommandInFlight := by
  intro s s' a i _ hbusy h
  obtain ⟨q, r, d, rfl⟩ := busAccess_of_busy hbusy h
  obtain ⟨t, ht, -⟩ := everyCommandCompletes i s
  exact ⟨rfl, t, _, ht, exec_withHostFields q r d ht, rfl, rfl, rfl, rfl, rfl, rfl, rfl⟩

/-! ### Secrets (10_state.md R44) -/

theorem SamePublic.exists_secrets {s t : State} (h : SamePublic s t) :
    ∃ bk cx, t = { s with bk := bk, cx := cx } := ⟨_, _, h.others⟩

theorem keyInfoWord_congr {a b : KeySlot} (h : SamePublicSlot a b) : keyInfoWord a = keyInfoWord b := by
  obtain ⟨hv, hc, ht, hz, hr, hm⟩ := h
  simp only [keyInfoWord, hv, hc, ht, hz, hr, hm]

/-- No word the host can read has a secret bit. -/
theorem readWord_congr {s t : State} (h : SamePublic s t) (a : Nat) : s.readWord a = t.readWord a := by
  have hkey := keyInfoWord_congr h.bk
  have hctr : ctrInfoWord s.cx = ctrInfoWord t.cx := by
    simp only [ctrInfoWord, h.init, h.cipher, h.ks.valid, h.ks.tweaked, h.ks.rounds, h.offset]
  obtain ⟨bk, cx, rfl⟩ := h.exists_secrets
  unfold State.readWord
  cases regionAt a with
  | keyinfo => exact hkey
  | ctrinfo => exact hctr
  | id | cmd | status | caps | buffer b | reserved => rfl

/-- The secrets two states differ in matter no more to two states with the same slots and contexts. -/
theorem SamePublic.carried {s s' : State} {bk : KeySlot} {cx : CtrContext}
    (h : SamePublic s { s with bk := bk, cx := cx }) (hbk : s'.bk = s.bk) (hcx : s'.cx = s.cx) :
    SamePublic s' { s' with bk := bk, cx := cx } where
  bk := hbk ▸ h.bk
  ks := hcx ▸ h.ks
  init := hcx ▸ h.init
  cipher := hcx ▸ h.cipher
  offset := hcx ▸ h.offset
  others := rfl

/-- No access touches a slot or a context. -/
theorem performAccess_secrets (s : State) (a : Access) :
    (s.performAccess a).bk = s.bk ∧ (s.performAccess a).cx = s.cx := by
  cases a with
  | read w a =>
    simp only [State.performAccess, State.busRead]
    split <;> exact ⟨rfl, rfl⟩
  | write w a v =>
    simp only [State.performAccess, State.busWrite]
    split_ifs <;> exact ⟨rfl, rfl⟩

/-- An access does the same beside other secrets. -/
theorem performAccess_other_secrets {s : State} {bk : KeySlot} {cx : CtrContext}
    (h : SamePublic s { s with bk := bk, cx := cx }) (a : Access) :
    State.performAccess { s with bk := bk, cx := cx } a = { s.performAccess a with bk := bk, cx := cx } := by
  cases a with
  | read w a =>
    simp only [State.performAccess, State.busRead, ← readWord_congr h]
    split <;> rfl
  | write w a v =>
    simp only [State.performAccess, State.busWrite]
    split_ifs <;> rfl

theorem busAccess_samePublic {s t : State} (h : SamePublic s t) (a : Access) :
    (∃ why, s.busAccess a = .fault why ∧ t.busAccess a = .fault why) ∨
      ∃ s' t', s.busAccess a = .next s' ∧ t.busAccess a = .next t' ∧ s'.response = t'.response ∧
        SamePublic s' t' := by
  obtain ⟨bk, cx, rfl⟩ := h.exists_secrets
  obtain ⟨why, hf, hc, hs⟩ | ⟨why, hf, hc, hs⟩ | ⟨hf, hs⟩ := busAccess_cases s a
  · exact .inl ⟨why, hs, by simp [State.busAccess, hf, hc]⟩
  · exact .inr ⟨_, { s with response := some (.busError why), bk := bk, cx := cx }, hs,
      by simp [State.busAccess, hf, hc], rfl, h.carried (s' := { s with response := some (.busError why) }) rfl rfl⟩
  · obtain ⟨hbk, hcx⟩ := performAccess_secrets s a
    exact .inr ⟨_, { s.performAccess a with bk := bk, cx := cx }, hs,
      by rw [busAccess_of_allowed hf, performAccess_other_secrets h], rfl, h.carried hbk hcx⟩

/-- Settles O59: both turns are the same access, on states whose every readable word is the same. -/
theorem busNeverShowsSecrets : Obligations.BusNeverShowsSecrets := by
  intro s t a rest hs h
  obtain ⟨bk, cx, rfl⟩ := h.exists_secrets
  rw [step_of_access hs, step_of_access (s := { s with bk := bk, cx := cx }) hs]
  exact busAccess_samePublic (h.carried (s' := { s with schedule := rest }) rfl rfl) a

end Sys2Proof.Machine
end

section
/-! PROOF. The bits of STATUS, KEYINFO and CTRINFO (10_state.md R23-R25). -/

namespace Sys2Proof.Machine

/-! ### Fields of a bus word -/

theorem getLsbD_flag_same (b : Bool) {k : Nat} (hk : k < 32) : (bitWord b <<< k).getLsbD k = b := by
  have hflag : (bitWord b).getLsbD (k - k) = (b && decide (k - k = 0)) := flagCode_bit b (k - k)
  rw [BitVec.getLsbD_shiftLeft, hflag]
  simp [hk]

theorem getLsbD_flag_other (b : Bool) {k i : Nat} (h : i ≠ k) : (bitWord b <<< k).getLsbD i = false := by
  have hflag : (bitWord b).getLsbD (i - k) = (b && decide (i - k = 0)) := flagCode_bit b (i - k)
  rw [BitVec.getLsbD_shiftLeft, hflag]
  by_cases hlt : i < k
  · simp [hlt]
  · simp [show ¬ i - k = 0 by omega]

theorem getLsbD_fieldWord {n : Nat} (hn : n ≤ 32) (v i : Nat) :
    (fieldWord n v).getLsbD i = (decide (i < n) && v.testBit i) := by
  have hlt : v % 2 ^ n < 2 ^ 32 :=
    lt_of_lt_of_le (Nat.mod_lt _ (Nat.two_pow_pos n)) (Nat.pow_le_pow_right (by decide) hn)
  rw [fieldWord, BitVec.getLsbD, BitVec.toNat_ofNat, Nat.mod_eq_of_lt hlt, Nat.testBit_mod_two_pow]

theorem getLsbD_field_inside {n k j : Nat} (v : Nat) (hn : n ≤ 32) (hk : k + j < 32) (hj : j < n) :
    (fieldWord n v <<< k).getLsbD (k + j) = v.testBit j := by
  rw [BitVec.getLsbD_shiftLeft, getLsbD_fieldWord hn, Nat.add_sub_cancel_left]
  simp [hk, hj]

theorem getLsbD_field_outside {n k i : Nat} (v : Nat) (hn : n ≤ 32) (h : i < k ∨ k + n ≤ i) :
    (fieldWord n v <<< k).getLsbD i = false := by
  rw [BitVec.getLsbD_shiftLeft, getLsbD_fieldWord hn]
  by_cases hlt : i < k
  · simp [hlt]
  · simp [show ¬ i - k < n by omega]

theorem cipherWord_eq_field (c : Cipher) : cipherWord c = fieldWord 2 c.code.toNat := by
  cases c <;> decide

theorem code_lt (c : Cipher) : c.code.toNat < 2 ^ 2 := by cases c <;> decide

/-- The bits of a word that hold a number in range are that number. -/
theorem toNat_extractLsb'_of_bits {w : Word} {start len v : Nat} (hv : v < 2 ^ len)
    (h : ∀ i < len, w.getLsbD (start + i) = v.testBit i) : (w.extractLsb' start len).toNat = v := by
  have hfield : w.extractLsb' start len = BitVec.ofNat len v := by
    ext i hi
    rw [BitVec.getElem_extractLsb', h i hi, ← BitVec.getLsbD_eq_getElem, BitVec.getLsbD_ofNat]
    simp [hi]
  rw [hfield, BitVec.toNat_ofNat, Nat.mod_eq_of_lt hv]

theorem extractLsb'_eq_zero_of_bits {w : Word} {start len : Nat} (h : ∀ i < len, w.getLsbD (start + i) = false) :
    w.extractLsb' start len = 0 :=
  BitVec.eq_of_toNat_eq (toNat_extractLsb'_of_bits (Nat.two_pow_pos len) (by simpa using h))

/-! ### STATUS (10_state.md R23) -/

theorem Status.word_eq_fields (t : Status) :
    t.word = bitWord t.busy <<< 0 ||| bitWord t.done <<< 1 ||| bitWord t.ok <<< 2 ||| bitWord t.overrun <<< 3
      ||| fieldWord 4 t.err.toNat <<< 4 := by
  have herr : t.err.setWidth 32 = fieldWord 4 t.err.toNat := by
    rw [fieldWord, Nat.mod_eq_of_lt t.err.isLt, BitVec.ofNat_toNat]
  rw [Status.word, herr, BitVec.shiftLeft_zero]

/-- Settles O19: each claim reads the one field at its place. -/
theorem statusWordLayout : Obligations.StatusWordLayout := by
  intro t
  rw [Status.word_eq_fields]
  refine ⟨?_, ?_, ?_, ?_, BitVec.eq_of_toNat_eq (toNat_extractLsb'_of_bits t.err.isLt fun i hi => ?_),
    extractLsb'_eq_zero_of_bits fun i hi => ?_⟩
  all_goals simp (disch := omega) only [BitVec.getLsbD_or, getLsbD_flag_same, getLsbD_flag_other,
    getLsbD_field_inside, getLsbD_field_outside, Bool.or_false, Bool.false_or]

/-! ### KEYINFO (10_state.md R24) -/

theorem roundCount_lt (c : Cipher) (z : Nat) : roundCount c z < 2 ^ 6 := by
  unfold roundCount
  split <;> decide

theorem rounds_lt_of_legalSlot {slot : KeySlot} (h : LegalSlot slot) : slot.rounds < 2 ^ 6 := by
  cases hv : slot.valid with
  | false => rw [h.empty hv]; decide
  | true =>
    by_cases hc : slot.cipher = .mantis
    · exact lt_of_le_of_lt (h.mantis hv hc).rounds_high (by decide)
    · rw [(h.skinny hv hc).rounds]
      exact roundCount_lt _ _

theorem z_lt_of_legalSlot {slot : KeySlot} (h : LegalSlot slot) (hv : slot.valid = true) : slot.z < 2 ^ 2 := by
  by_cases hc : slot.cipher = .mantis
  · rw [(h.mantis hv hc).z]
    decide
  · exact lt_of_le_of_lt (h.skinny hv hc).z_high (by decide)

/-- In a legal slot with a key the fields of the other cipher kind are 0, so that KEYINFO has every field at its
place. -/
theorem keyInfoWord_eq_fields {bk : KeySlot} (h : LegalSlot bk) (hv : bk.valid = true) :
    keyInfoWord bk = bitWord true <<< 0 ||| fieldWord 2 bk.cipher.code.toNat <<< 1 ||| bitWord bk.tweaked <<< 3
      ||| fieldWord 6 bk.rounds <<< 4 ||| fieldWord 2 bk.z <<< 10 ||| bitWord bk.mode <<< 12 := by
  rw [keyInfoWord, if_pos hv, cipherWord_eq_field]
  by_cases hc : bk.cipher = .mantis
  · rw [if_pos hc, if_pos hc, (h.mantis hv hc).z]
    rfl
  · obtain ⟨-, -, -, hmode, -⟩ := (h.skinny hv hc).no_mantis
    rw [if_neg hc, if_neg hc, hmode]
    rfl

theorem keyInfoLayout : KeyInfoLayout := by
  intro bk h
  refine ⟨fun hv => by rw [h.empty hv]; rfl, fun hv => ?_⟩
  rw [keyInfoWord_eq_fields h hv]
  refine ⟨?_, Eq.trans (b := bk.cipher.code.toNat) (toNat_extractLsb'_of_bits (code_lt _) fun i hi => ?_)
      (by cases bk.cipher <;> rfl), ?_, toNat_extractLsb'_of_bits (rounds_lt_of_legalSlot h) fun i hi => ?_,
    toNat_extractLsb'_of_bits (z_lt_of_legalSlot h hv) fun i hi => ?_, ?_,
    extractLsb'_eq_zero_of_bits fun i hi => ?_⟩
  all_goals simp (disch := omega) only [BitVec.getLsbD_or, getLsbD_flag_same, getLsbD_flag_other,
    getLsbD_field_inside, getLsbD_field_outside, Bool.or_false, Bool.false_or]

/-! ### CTRINFO (10_state.md R25) -/

theorem ctrInfoWord_eq_fields {cx : CtrContext} (hi : cx.init = true) :
    ctrInfoWord cx = bitWord true <<< 0 ||| fieldWord 2 cx.cipher.code.toNat <<< 1 ||| bitWord cx.ks.valid <<< 3
      ||| bitWord cx.ks.tweaked <<< 4 ||| fieldWord 6 cx.ks.rounds <<< 8 ||| fieldWord 8 cx.offset <<< 16 := by
  rw [ctrInfoWord, if_pos hi, cipherWord_eq_field]
  rfl

/-- The offset fits its field: at most 8 lanes of 16 bytes. -/
theorem offset_lt_of_legalContext {lanes : Lanes} {cx : CtrContext} (h : LegalContext lanes.count cx) :
    cx.offset < 2 ^ 8 := by
  have hlanes : lanes.count ≤ 8 := by cases lanes <;> decide
  calc cx.offset ≤ lanes.count * blockSize cx.cipher := h.offset
    _ ≤ 8 * 16 := Nat.mul_le_mul hlanes (blockSize_le _)
    _ < 2 ^ 8 := by decide

theorem ctrInfoLayout : CtrInfoLayout := by
  intro lanes cx h
  refine ⟨fun hn => by rw [h.empty hn]; rfl, fun hi => ?_⟩
  rw [ctrInfoWord_eq_fields hi]
  refine ⟨?_, Eq.trans (b := cx.cipher.code.toNat) (toNat_extractLsb'_of_bits (code_lt _) fun i hi => ?_)
      (by cases cx.cipher <;> rfl), ?_, ?_, extractLsb'_eq_zero_of_bits fun i hi => ?_,
    toNat_extractLsb'_of_bits (rounds_lt_of_legalSlot h.slot) fun i hi => ?_,
    extractLsb'_eq_zero_of_bits fun i hi => ?_,
    toNat_extractLsb'_of_bits (offset_lt_of_legalContext h) fun i hi => ?_,
    extractLsb'_eq_zero_of_bits fun i hi => ?_⟩
  all_goals simp (disch := omega) only [BitVec.getLsbD_or, getLsbD_flag_same, getLsbD_flag_other,
    getLsbD_field_inside, getLsbD_field_outside, Bool.or_false, Bool.false_or]

/-- Settles O20: both words are fields side by side, and a legal record fits each field. -/
theorem infoWordsReportMetadata : Obligations.InfoWordsReportMetadata := ⟨keyInfoLayout, ctrInfoLayout⟩

end Sys2Proof.Machine
end

section
/-! PROOF. Bus errors, the host's writes busy and idle, and the free reads while busy (20_memory.md R62-R66, R79, R80,
60_exceptions.md R309-R311, R316). -/

namespace Sys2Proof.Machine

/-! ### The map of the window in the statements' words -/

/-- Where CMD lies, which offsets are reserved, which are read-only and which read freely while busy
(20_memory.md R61, R62, R66, R80). -/
theorem regionAt_classes (a : Nat) :
    (regionAt a = .cmd ↔ 0x004 ≤ a ∧ a < 0x008) ∧ (regionAt a = .reserved ↔ ReservedOffset a) ∧
      ((regionAt a).readOnly = true ↔ ReadOnlyOffset a) ∧
      ((regionAt a).freeWhileBusy = true ↔ (0x00C ≤ a ∧ a < 0x014) ∨ CoreWritten a) := by
  simp only [ReadOnlyOffset, ReservedOffset, CoreWritten]
  rcases regionAt_cases a with ⟨h, hr⟩ | ⟨h, h', hr⟩ | ⟨h, h', hr⟩ | ⟨h, h', hr⟩ | ⟨h, h', hr⟩ | ⟨h, h', hr⟩ | ⟨h, hr⟩
  case inr.inr.inr.inr.inr.inr =>
    rcases bufferAt_cases a with ⟨l, u, hb⟩ | ⟨l, u, hb⟩ | ⟨l, u, hb⟩ | ⟨l, u, hb⟩ | ⟨l, u, hb⟩ | ⟨l, u, hb⟩ |
      ⟨l, u, hb⟩ | ⟨l, hb⟩
    all_goals
      simp only [hr, hb, Region.readOnly, Region.freeWhileBusy, Buffer.hostWritable, reduceCtorEq, Bool.not_true,
        Bool.not_false, true_iff, false_iff]
      omega
  all_goals
    simp only [hr, Region.readOnly, Region.freeWhileBusy, reduceCtorEq, true_iff, false_iff]
    omega

/-! ### Refused accesses -/

theorem accessFault_of_notAlignedWord {a : Access} (h : a.width ≠ .bits32 ∨ a.offset % 4 ≠ 0) :
    accessFault a = some .notAlignedWord := if_pos h

theorem accessFault_of_reserved {a : Access} (hw : a.width = .bits32) (h4 : a.offset % 4 = 0)
    (hr : ReservedOffset a.offset) : accessFault a = some .reservedOffset := by
  obtain ⟨-, hreserved, -⟩ := regionAt_classes a.offset
  rw [accessFault, if_neg (by simp [hw, h4]), if_pos (hreserved.mpr hr)]

theorem accessFault_of_readOnly {a : Access} (hw : a.width = .bits32) (h4 : a.offset % 4 = 0)
    (hwrite : a.isWrite = true) (hr : ReadOnlyOffset a.offset) : accessFault a = some .readOnlyWrite := by
  obtain ⟨-, hreserved, hreadOnly, -⟩ := regionAt_classes a.offset
  have hmapped : ¬ ReservedOffset a.offset := by
    unfold ReadOnlyOffset CoreWritten at hr
    unfold ReservedOffset
    omega
  rw [accessFault, if_neg (by simp [hw, h4]), if_neg (mt hreserved.mp hmapped), if_pos ⟨hwrite, hreadOnly.mpr hr⟩]

theorem accessFault_of_mapped {a : Access} (hw : a.width = .bits32) (h4 : a.offset % 4 = 0)
    (hr : ¬ ReservedOffset a.offset) (hwrite : ¬ (a.isWrite = true ∧ ReadOnlyOffset a.offset)) :
    accessFault a = none := by
  obtain ⟨-, hreserved, hreadOnly, -⟩ := regionAt_classes a.offset
  exact accessFault_eq_none.mpr ⟨hw, h4, mt hreserved.mp hr, fun hwr =>
    Bool.eq_false_iff.mpr fun h => hwrite ⟨hwr, hreadOnly.mp h⟩⟩

/-- What the platform does with a refused access (log 4). -/
theorem refusedWith_of_accessFault {s : State} {a : Access} {rest : List Turn} {why : Fault}
    (hs : s.schedule = .access a :: rest) (h : accessFault a = some why) : RefusedWith s why rest (step s) := by
  rw [step_of_access hs]
  exact ⟨fun hstop => by simp [State.busAccess, h, hstop], fun hgo => by simp [State.busAccess, h, hgo]⟩

theorem performAccess_response_ne_busError (s : State) (a : Access) (why : Fault) :
    (s.performAccess a).response ≠ some (.busError why) := by
  cases a with
  | read w a =>
    rw [State.performAccess, State.busRead]
    split <;> simp
  | write w a v =>
    rw [State.performAccess, State.busWrite]
    dsimp only
    split_ifs <;> simp

/-- Settles O18: each condition of R311 gives its own fault, and an access that meets none is performed. -/
theorem busErrorsAreExactlyThree : Obligations.BusErrorsAreExactlyThree := by
  intro s a rest hs
  refine ⟨fun h => refusedWith_of_accessFault hs (accessFault_of_notAlignedWord h),
    fun hw h4 hr => refusedWith_of_accessFault hs (accessFault_of_reserved hw h4 hr),
    fun hw h4 hwrite hr => refusedWith_of_accessFault hs (accessFault_of_readOnly hw h4 hwrite hr),
    fun hw h4 hr hwrite => ?_⟩
  rw [step_of_access hs, busAccess_of_allowed (accessFault_of_mapped hw h4 hr hwrite)]
  exact ⟨_, rfl, performAccess_response_ne_busError _ a⟩

/-! ### Writes to CMD and the host-written buffers -/

theorem accessFault_write_of_hostWritten {a : BitVec 12} (h4 : a.toNat % 4 = 0) (hw : HostWritten a.toNat) (v : Word) :
    accessFault (.write .bits32 a v) = none := by
  unfold HostWritten at hw
  exact accessFault_of_mapped rfl h4
    (by simp only [ReservedOffset, Access.offset]; omega)
    (by simp only [ReadOnlyOffset, CoreWritten, Access.offset]; omega)

theorem step_write_of_hostWritten {s : State} {a : BitVec 12} {v : Word} {rest : List Turn}
    (hs : s.schedule = .access (.write .bits32 a v) :: rest) (h4 : a.toNat % 4 = 0) (hw : HostWritten a.toNat) :
    step s = .next ({ s with schedule := rest }.busWrite a.toNat v) := by
  rw [step_of_access hs, busAccess_of_allowed (accessFault_write_of_hostWritten h4 hw v)]
  rfl

theorem busWrite_of_busy {s : State} (h : s.seq.busy = true) (a : Nat) (v : Word) :
    s.busWrite a v = { s with response := some .written, status := s.status.overran } := by
  simp [State.busWrite, h]

theorem busWrite_of_idle {s : State} (h : s.seq.busy = false) {a : Nat} (hcmd : regionAt a ≠ .cmd) (v : Word) :
    s.busWrite a v = { s with response := some .written, mem := s.mem.writeBytes a (wordBytes v) } := by
  simp [State.busWrite, h, hcmd]

/-- Settles O13: a busy write only sets OVERRUN, and acceptance clears it. -/
theorem busyWriteSetsOverrun : Obligations.BusyWriteSetsOverrun := by
  constructor
  · intro s a v rest hs h4 hw hbusy
    rw [step_write_of_hostWritten hs h4 hw, busWrite_of_busy (s := { s with schedule := rest }) hbusy]
    rfl
  · intro s v rest hs hidle
    obtain ⟨l, hstep, -⟩ := idleCommandWriteAccepts s v rest hs hidle
    exact ⟨_, hstep, rfl, rfl⟩

/-- Settles O14: an idle write past CMD stores the four bytes of the word from its offset on. -/
theorem idleBufferWriteStoresWord : Obligations.IdleBufferWriteStoresWord := by
  intro s a v rest hs h4 hw hne hidle
  obtain ⟨hcmd, -⟩ := regionAt_classes a.toNat
  have hpast : regionAt a.toNat ≠ .cmd := fun h => by
    obtain ⟨hlow, hhigh⟩ := hcmd.mp h
    exact hne (BitVec.eq_of_toNat_eq (by omega : a.toNat = 4))
  have hlength : (wordBytes v).length = 4 := rfl
  rw [step_write_of_hostWritten hs h4 hw, busWrite_of_idle (s := { s with schedule := rest }) hidle hpast]
  refine ⟨_, rfl, fun k hk => ?_, fun b hb => ?_, rfl⟩
  · rw [read_writeBytes, hlength, if_pos (by omega), Nat.add_sub_cancel_left, wordBytes_getD v k hk]
  · rw [read_writeBytes, hlength, if_neg (by omega)]

/-! ### Free reads -/

/-- Settles O17: these reads are not refused, and their regions are the free ones while busy. -/
theorem busyReadsOfOutputsAreFree : Obligations.BusyReadsOfOutputsAreFree := by
  intro s a rest hs h4 hbusy ha
  obtain ⟨-, hreserved, -, hfree⟩ := regionAt_classes a.toNat
  have hout : (0x00C ≤ a.toNat ∧ a.toNat < 0x014) ∨ CoreWritten a.toNat := by
    rcases ha with rfl | rfl | hcore
    · exact .inl (by decide)
    · exact .inl (by decide)
    · exact .inr hcore
  have hmapped : ¬ ReservedOffset a.toNat := by
    unfold CoreWritten at hout
    unfold ReservedOffset
    omega
  have hok : accessFault (.read .bits32 a) = none := accessFault_of_mapped rfl h4 hmapped nofun
  rw [step_of_access hs, busAccess_of_allowed hok]
  simp [State.performAccess, State.busRead, hbusy, hfree.mpr hout]

end Sys2Proof.Machine
end

section
/-! PROOF. Big-endian operands, and the commands that read a Mantis key, a tweak or a counter operand: SET_KEY with
Mantis, SET_TWEAK, CRYPT_TWEAKED and CTR_SET_COUNTER (20_memory.md R70, R71, 41_key_setup.md R179-R181, R186, R188,
42_block_crypt.md R231, R237, 43_ctr.md R269). -/

namespace Sys2Proof.Machine

/-! ### Big-endian integers (20_memory.md R70, R71) -/

theorem beNat_cons (x : Byte) (b : List Byte) : beNat (x :: b) = x.toNat * 256 ^ b.length + beNat b := by
  induction b using List.reverseRecOn with
  | nil => simp [beNat]
  | append_singleton b y ih =>
    rw [← List.cons_append, beNat_append_singleton, beNat_append_singleton, ih, List.length_append,
      List.length_singleton, pow_succ]
    ring

/-- Zeros on the left are no part of the value. -/
theorem beNat_replicate_zero_append (n : Nat) (b : List Byte) : beNat (List.replicate n 0 ++ b) = beNat b := by
  induction n with
  | zero => rfl
  | succ n ih =>
    rw [List.replicate_succ, List.cons_append, beNat_cons, ih]
    simp

/-- The value is the sum of the bytes at their weights. -/
theorem beNat_eq_sum (b : List Byte) :
    beNat b = ((List.range b.length).map fun k => (b.getD k 0).toNat * 256 ^ (b.length - 1 - k)).sum := by
  induction b with
  | nil => rfl
  | cons x b ih =>
    rw [beNat_cons, ih, List.length_cons, List.range_succ_eq_map, List.map_cons, List.sum_cons, List.map_map]
    refine congrArg₂ (· + ·) rfl (congrArg List.sum (List.map_congr_left fun k _ => ?_))
    simp only [Function.comp_apply, Nat.succ_eq_add_one, List.getD_cons_succ]
    rw [show b.length + 1 - 1 - (k + 1) = b.length - 1 - k by omega]

/-- Byte `i` of the value is byte `i` of the string. -/
theorem beNat_byte (b : List Byte) {i : Nat} (hi : i < b.length) :
    beNat b / 256 ^ (b.length - 1 - i) % 256 = (b.getD i 0).toNat := by
  induction b using List.reverseRecOn with
  | nil => simp at hi
  | append_singleton b x ih =>
    have hx : x.toNat < 256 := x.isLt
    rw [List.length_append, List.length_singleton] at hi ⊢
    rw [beNat_append_singleton]
    by_cases hlast : i = b.length
    · subst hlast
      simp [Nat.mod_eq_of_lt hx]
    · have hi' : i < b.length := by omega
      rw [show b.length + 1 - 1 - i = b.length - 1 - i + 1 by omega, pow_succ', ← Nat.div_div_eq_div_mul,
        show (beNat b * 256 + x.toNat) / 256 = beNat b by omega, ih hi', List.getD_append _ _ _ _ hi']

/-- `BE` of an 8-byte string is its big-endian integer. -/
theorem bigEndian64_be64 {b : List Byte} (hb : b.length = 8) : BigEndian64 (be64 b) fun i => b.getD i 0 := by
  intro i hi
  apply BitVec.eq_of_toNat_eq
  have hlt : beNat b < 2 ^ 64 := by simpa [hb] using beNat_lt b
  rw [BitVec.extractLsb'_toNat, be64, BitVec.toNat_ofNat, Nat.mod_eq_of_lt hlt, Nat.shiftRight_eq_div_pow,
    show 56 - 8 * i = 8 * (7 - i) by omega, pow_mul, ← beNat_byte b (by omega), hb]
  rfl

theorem getD_take (b : List Byte) {n i : Nat} (hi : i < n) : (b.take n).getD i 0 = b.getD i 0 := by
  simp only [List.getD_eq_getElem?_getD, List.getElem?_take_of_lt hi]

theorem getD_drop (b : List Byte) (m i : Nat) : (b.drop m).getD i 0 = b.getD (m + i) 0 := by
  simp only [List.getD_eq_getElem?_getD, List.getElem?_drop]

theorem BigEndian64.congr {x : BitVec 64} {f g : Nat → Byte} (h : BigEndian64 x f) (hfg : ∀ i < 8, f i = g i) :
    BigEndian64 x g := fun i hi => (h i hi).trans (hfg i hi)

/-! ### SET_KEY with Mantis (41_key_setup.md R179, R180, R186) -/

theorem loadedMantis_loadMantis {key : List Byte} (hkey : 16 ≤ key.length) (r : Nat) (m : Bool) :
    LoadedMantis r m key (loadMantis (key.take 16) r m) := by
  have hk0 : BigEndian64 (be64 ((key.take 16).take 8)) fun i => key.getD i 0 :=
    (bigEndian64_be64 (by simp; omega)).congr fun i hi => by rw [getD_take _ hi, getD_take _ (by omega)]
  have hk1 : BigEndian64 (be64 (((key.take 16).drop 8).take 8)) fun i => key.getD (8 + i) 0 :=
    (bigEndian64_be64 (by simp; omega)).congr fun i hi => by
      rw [getD_take _ hi, getD_drop, getD_take _ (by omega)]
  have hwords (j : Nat) (hj : j < 3) : slotWord zeroSlot j = zeroCells 8 := by
    interval_cases j <;> rfl
  cases m with
  | false =>
    exact ⟨⟨rfl, rfl, rfl, rfl⟩, rfl, hwords, rfl, rfl, _, _, hk0, hk1, fun _ => ⟨rfl, rfl, rfl⟩, nofun⟩
  | true =>
    exact ⟨⟨rfl, rfl, rfl, rfl⟩, rfl, hwords, rfl, rfl, _, _, hk0, hk1, nofun, fun _ => ⟨rfl, rfl, rfl⟩⟩

theorem badKeyOperand_mantis {r : BitVec 4} (h5 : 5 ≤ r.toNat) (h8 : r.toNat ≤ 8) :
    badKeyOperand .mantis false 16 r = false := by
  simp [badKeyOperand, mantisKeyOk, h5, h8]

/-- Settles O23: the operand passes its one check, and LoadMantis of it is the slot of R179, swapped for MODE 1. -/
theorem setKeyMantisLoadsSlot : Obligations.SetKeyMantisLoadsSlot := by
  intro s r m hsized h5 h8
  exact ⟨_, exec_setKey_of_good rfl (badKeyOperand_mantis h5 h8) s,
    loadedMantis_loadMantis (by rw [hsized.key]; decide) r.toNat m⟩

/-! ### SET_TWEAK (41_key_setup.md R188) -/

theorem badBlockOperand_of_legal {c : Cipher} {nullp : Bool} {len : BitVec 9} (hnull : nullp = true → len = 0)
    (hlen : len.toNat ≤ blockSize c) : badBlockOperand c nullp len = false := by
  simpa [badBlockOperand, hlen] using hnull

theorem tweakBytes_tweakOperand {s : State} (hsized : s.latch.Sized) {c : Cipher} (nullp : Bool) {len : BitVec 9}
    (hlen : len.toNat ≤ blockSize c) : TweakBytes c nullp len s.latch.tweak (s.tweakOperand c nullp len) := by
  have htake : (s.latch.tweak.take len.toNat).length = len.toNat := by
    rw [List.length_take, hsized.tweak]
    exact Nat.min_eq_left (hlen.trans (blockSize_le c))
  unfold State.tweakOperand
  cases nullp with
  | true => exact ⟨by simp, fun k hk => by simp [hk]⟩
  | false =>
    refine ⟨by simp only [Bool.false_eq_true, if_false, List.length_append, htake, List.length_replicate]; omega,
      fun k hk => ?_⟩
    simp only [Bool.false_eq_true, if_false, true_and]
    split
    · rename_i hin
      rw [List.getD_append _ _ _ _ (by omega), getD_take _ hin]
    · rw [List.getD_append_right _ _ _ _ (by omega), List.getD_replicate 0 (by omega)]

/-- SET_TWEAK on a tweaked slot of its cipher with a legal operand replaces the slot by the retweaked one. -/
theorem exec_setTweak_of_good {s : State} {c : Cipher} {nullp : Bool} {len : BitVec 9} (hv : s.bk.valid = true)
    (hc : s.bk.cipher = c) (ht : s.bk.tweaked = true) (hgood : badBlockOperand c nullp len = false) :
    exec (.setTweak c nullp len) s
      = .next (succeeded { s with bk := retweakSlot s.bk c (s.tweakOperand c nullp len) }) :=
  command_of_passed rfl (List.forall_mem_append.mpr
    ⟨blockKeyChecks_passed.mpr ⟨hv, hc⟩, by simp [ht, hgood]⟩)

theorem retweakSlot_skinny {c : Cipher} (hc : c ≠ .mantis) (slot : KeySlot) (tb : List Byte) :
    retweakSlot slot c tb = { slot with tk := { slot.tk with t0 := slotCells c tb } } := by
  cases c with
  | s64 | s128 => rfl
  | mantis => contradiction

/-- Settles O25: every check passes, and the operand's bytes become T of a Mantis slot or TK1 of a Skinny one. -/
theorem setTweakReplacesTweakAlone : Obligations.SetTweakReplacesTweakAlone := by
  intro s c nullp len hsized hv hc ht hnull hlen
  have htb := tweakBytes_tweakOperand hsized nullp hlen
  have hexec := exec_setTweak_of_good hv hc ht (badBlockOperand_of_legal hnull hlen)
  refine ⟨_, htb, ?_, fun hskinny => ⟨_, wordOfBytes_slotCells c _, ?_⟩⟩
  · rintro rfl
    exact ⟨_, bigEndian64_be64 htb.1, hexec⟩
  · rw [hexec, retweakSlot_skinny hskinny]

/-! ### CRYPT_TWEAKED (42_block_crypt.md R231, R237) -/

/-- A block put out by a command that succeeds is published. -/
theorem blockPublished_putBlockOut (s : State) {y : List Byte} (hy : y.length ≤ 16) :
    BlockPublished s (succeeded (s.putBlockOut y)) y where
  output i hi := read_putBlockOut s y hy i hi
  otherBytes a ha := read_putBlockOut_other s y hy a ha
  otherFields := rfl

/-- Settles O34: the explicit tweak is BE of the first eight bytes of the latched TWEAK. -/
theorem cryptTweakedUsesExplicitTweak : Obligations.CryptTweakedUsesExplicitTweak := by
  intro s hsized hv hc
  have hexec : exec (.cryptTweaked .mantis) s
      = .next (succeeded (s.putBlockOut (mantisCrypt s.bk (s.blockOperand .mantis) s.explicitTweak))) :=
    command_of_passed rfl (blockKeyChecks_passed.mpr ⟨hv, hc⟩)
  have htweak : BigEndian64 s.explicitTweak fun k => s.latch.tweak.getD k 0 :=
    (bigEndian64_be64 (by simp [hsized.tweak])).congr fun i hi => getD_take _ hi
  exact ⟨_, _, hexec, htweak, blockPublished_putBlockOut s (by simp), rfl⟩

/-! ### CTR_SET_COUNTER (43_ctr.md R269) -/

/-- A legal counter operand is the big-endian sum of the latched COUNTER bytes. -/
theorem beNat_counterOperand {s : State} (hsized : s.latch.Sized) {c : Cipher} {nullp : Bool} {len : BitVec 9}
    (hnull : nullp = true → len = 0) (hlen : len.toNat ≤ blockSize c) :
    beNat (s.counterOperand c nullp len) = ((List.range len.toNat).map fun k =>
      (s.latch.counter.getD k 0).toNat * 256 ^ (len.toNat - 1 - k)).sum := by
  have htake : (s.latch.counter.take len.toNat).length = len.toNat := by
    rw [List.length_take, hsized.counter]
    exact Nat.min_eq_left (hlen.trans (blockSize_le c))
  cases nullp with
  | true =>
    rw [hnull rfl]
    simpa [State.counterOperand, beNat] using beNat_replicate_zero_append (blockSize c) []
  | false =>
    simp only [State.counterOperand, Bool.false_eq_true, if_false]
    rw [beNat_replicate_zero_append, beNat_eq_sum, htake]
    refine congrArg List.sum (List.map_congr_left fun k hk => ?_)
    rw [getD_take _ (List.mem_range.mp hk)]

/-- Settles O46: every check passes without a key, and the offset becomes the buffer's size. -/
theorem ctrSetCounterSetsCounter : Obligations.CtrSetCounterSetsCounter := by
  rintro s c nullp len hsized hinit rfl hnull hlen
  have hexec : exec (.ctrSetCounter s.cx.cipher nullp len) s = .next (succeeded
      { s with
        cx := exhausted s.cfg.lanes.count { s.cx with c := beNat (s.counterOperand s.cx.cipher nullp len) } }) :=
    command_of_passed rfl (List.forall_mem_append.mpr
      ⟨contextChecks_passed.mpr ⟨hinit, rfl⟩, by simp [badBlockOperand_of_legal hnull hlen]⟩)
  rw [hexec, beNat_counterOperand hsized hnull hlen]
  rfl

end Sys2Proof.Machine
end

section
/-! PROOF. The Skinny and Mantis rounds cell by cell, and the block functions as those rounds on the cells of the block
(42_block_crypt.md R221-R229). -/

namespace Sys2Proof.Machine

variable {w : Nat}

/-! ### The steps of a Skinny round, cell by cell -/

/-- What AddRoundKey XORs into cell `i`: the round key into cells 0..7 and 0x2 into cell 8 (42_block_crypt.md R221). -/
def roundKeyCell (rk : HalfCells w) (i : Nat) : BitVec w :=
  if i < 8 then [rk.r0, rk.r1, rk.r2, rk.r3, rk.r4, rk.r5, rk.r6, rk.r7].getD i 0
  else if i = 8 then BitVec.ofNat w 2 else 0

theorem cellAt_addRoundKey (s : Cells w) (rk : HalfCells w) {i : Nat} (hi : i < 16) :
    cellAt (addRoundKey s rk) i = cellAt s i ^^^ roundKeyCell rk i := by
  by_cases hkeyed : i < 9
  · interval_cases i <;> rfl
  · have hzero : roundKeyCell rk i = 0#w :=
      (if_neg (by omega)).trans (if_neg (by omega))
    rw [hzero, BitVec.xor_zero]
    interval_cases i <;> rfl

theorem cellAt_subCells (t : BitVec w → BitVec w) (s : Cells w) {i : Nat} (hi : i < 16) :
    cellAt (subCells t s) i = t (cellAt s i) := cellAt_mapCells t s i hi

/-- Row `r` of ShiftRows is rotated right by `r` (40_engines.md R130). -/
theorem cellAt_shiftRows (s : Cells w) {r c : Nat} (hr : r < 4) (hc : c < 4) :
    cellAt (shiftRows s) (4 * r + c) = cellAt s (4 * r + (c + 4 - r) % 4) := by
  have hperm : ∀ r < 4, ∀ c < 4, pSR.getD (4 * r + c) 0 = 4 * r + (c + 4 - r) % 4 := by decide
  rw [shiftRows, cellAt_permute _ _ _ (by omega), hperm r hr c hc]

/-- Row `r` of InvShiftRows is rotated left by `r` (40_engines.md R131). -/
theorem cellAt_invShiftRows (s : Cells w) {r c : Nat} (hr : r < 4) (hc : c < 4) :
    cellAt (invShiftRows s) (4 * r + c) = cellAt s (4 * r + (c + r) % 4) := by
  have hperm : ∀ r < 4, ∀ c < 4, pSRInv.getD (4 * r + c) 0 = 4 * r + (c + r) % 4 := by decide
  rw [invShiftRows, cellAt_permute _ _ _ (by omega), hperm r hr c hc]

/-- The rows of MixColumns in column `c` (40_engines.md R134). -/
theorem cellAt_mixColumns (s : Cells w) {c : Nat} (hc : c < 4) :
    cellAt (mixColumns s) c = cellAt s c ^^^ cellAt s (8 + c) ^^^ cellAt s (12 + c) ∧
      cellAt (mixColumns s) (4 + c) = cellAt s c ∧
      cellAt (mixColumns s) (8 + c) = cellAt s (4 + c) ^^^ cellAt s (8 + c) ∧
      cellAt (mixColumns s) (12 + c) = cellAt s c ^^^ cellAt s (8 + c) := by
  interval_cases c <;> exact ⟨rfl, rfl, rfl, rfl⟩

/-- The rows of InvMixColumns in column `c` (40_engines.md R135). -/
theorem cellAt_invMixColumns (s : Cells w) {c : Nat} (hc : c < 4) :
    cellAt (invMixColumns s) c = cellAt s (4 + c) ∧
      cellAt (invMixColumns s) (4 + c) = cellAt s (4 + c) ^^^ cellAt s (8 + c) ^^^ cellAt s (12 + c) ∧
      cellAt (invMixColumns s) (8 + c) = cellAt s (4 + c) ^^^ cellAt s (12 + c) ∧
      cellAt (invMixColumns s) (12 + c) = cellAt s c ^^^ cellAt s (12 + c) := by
  interval_cases c <;> exact ⟨rfl, rfl, rfl, rfl⟩

/-! ### Skinny rounds and block functions -/

/-- The cells between ShiftRows and MixColumns are those of the shifted state (42_block_crypt.md R221). -/
theorem skinnyRoundCells : SkinnyRoundCells := by
  intro w e s rk
  refine ⟨cellAt (shiftRows (addRoundKey (subCells e.sbox s) rk)), fun r hr c hc => ?_,
    fun c hc => cellAt_mixColumns _ hc⟩
  rw [cellAt_shiftRows _ hr hc, cellAt_addRoundKey _ _ (by omega), cellAt_subCells _ _ (by omega)]
  rfl

/-- The cells after InvMixColumns go through the other steps one by one (42_block_crypt.md R223). -/
theorem skinnyInvRoundCells : SkinnyInvRoundCells := by
  intro w e s rk
  refine ⟨cellAt (invMixColumns s), fun c hc => cellAt_invMixColumns s hc, fun r hr c hc => ?_⟩
  dsimp only
  rw [skinnyInvRound, cellAt_subCells _ _ (by omega), cellAt_addRoundKey _ _ (by omega), cellAt_invShiftRows _ hr hc]
  rfl

theorem skinnyRounds_eq_foldl (e : Engine w) (rk : Nat → HalfCells w) (n : Nat) (s : Cells w) :
    skinnyRounds e rk n s = (List.range n).foldl (fun x r => skinnyRound e x (rk r)) s := by
  induction n with
  | zero => rfl
  | succ n ih => rw [skinnyRounds, ih, List.range_succ, List.foldl_append]; rfl

theorem skinnyInvRounds_eq_foldl (e : Engine w) (rk : Nat → HalfCells w) (n : Nat) (s : Cells w) :
    skinnyInvRounds e rk n s = (List.range n).reverse.foldl (fun x r => skinnyInvRound e x (rk r)) s := by
  induction n generalizing s with
  | zero => rfl
  | succ n ih => rw [skinnyInvRounds, ih, List.range_succ, List.reverse_concat, List.foldl_cons]

theorem skinnyRunsRounds_s64 : SkinnyRunsRounds .s64 engine4 := by
  rintro slot b hc
  refine ⟨by rw [length_skinnyEncrypt, hc], by rw [length_skinnyDecrypt, hc], cells4 b,
    fun n hn => toNat_cellAt_cells4 b (by decide) hn, fun n hn => ?_⟩
  rw [← skinnyRounds_eq_foldl, ← skinnyInvRounds_eq_foldl]
  simp only [skinnyEncrypt, skinnyDecrypt, hc]
  exact ⟨serialCell_bytes4 _ (by decide) hn, serialCell_bytes4 _ (by decide) hn⟩

theorem skinnyRunsRounds_s128 : SkinnyRunsRounds .s128 engine8 := by
  rintro slot b hc
  refine ⟨by rw [length_skinnyEncrypt, hc], by rw [length_skinnyDecrypt, hc], cells8 b,
    fun n hn => toNat_cellAt_cells8 b hn, fun n hn => ?_⟩
  rw [← skinnyRounds_eq_foldl, ← skinnyInvRounds_eq_foldl]
  simp only [skinnyEncrypt, skinnyDecrypt, hc]
  exact ⟨serialCell_bytes8 _ n, serialCell_bytes8 _ n⟩

/-- Settles O38: the rounds step by step, and the two families by the cell width of their bytes. -/
theorem skinnyRoundCellByCell : Obligations.SkinnyRoundCellByCell :=
  ⟨skinnyRoundCells, skinnyInvRoundCells,
    fun _ e s rk n => ⟨skinnyRounds_eq_foldl e rk n s, skinnyInvRounds_eq_foldl e rk n s⟩,
    skinnyRunsRounds_s64, skinnyRunsRounds_s128⟩

/-! ### The steps of a Mantis round, cell by cell -/

/-- Cell `n` of a nibble array (42_block_crypt.md R225). -/
theorem toNat_cellAt_nibbles (x : BitVec 64) {n : Nat} (hn : n < 16) :
    (cellAt (nibbles x) n).toNat = x.toNat / 2 ^ (60 - 4 * n) % 16 := by
  rw [nibbles, cellAt_cellsOf _ _ hn, BitVec.extractLsb'_toNat, Nat.shiftRight_eq_div_pow]

/-- Each cell of MixColumnsM is the XOR of its column and itself (40_engines.md R136). -/
theorem cellAt_mixColumnsM (s : Cells w) {n : Nat} (hn : n < 16) :
    cellAt (mixColumnsM s) n = cellAt s (n % 4) ^^^ cellAt s (n % 4 + 4) ^^^ cellAt s (n % 4 + 8) ^^^
      cellAt s (n % 4 + 12) ^^^ cellAt s n := by
  rw [mixColumnsM, cellAt_cellsOf _ _ hn]
  simp only [Nat.mul_zero, Nat.mul_one, Nat.zero_add, Nat.add_comm]

/-- The places a cell permutation takes its cells from are cells. -/
theorem pM_lt : ∀ n < 16, pM.getD n 0 < 16 := by decide

theorem pMInv_lt : ∀ n < 16, pMInv.getD n 0 < 16 := by decide

/-- The state of a forward round before its cells are permuted (42_block_crypt.md R226). -/
theorem cellAt_mantisRound (k : BitVec 64) (i : Nat) (m : MantisState) : ∃ b : Nat → BitVec 4,
    (∀ n < 16, b n =
      sboxM (cellAt m.s (pM.getD n 0)) ^^^ cellAt (nibbles (mantisConstant i)) (pM.getD n 0) ^^^
        cellAt (nibbles k) (pM.getD n 0) ^^^ cellAt (mantisRound k i m).t (pM.getD n 0)) ∧
    ∀ n < 16, cellAt (mantisRound k i m).s n =
      b (n % 4) ^^^ b (n % 4 + 4) ^^^ b (n % 4 + 8) ^^^ b (n % 4 + 12) ^^^ b n := by
  refine ⟨cellAt (permuteCells (xorCells (xorCells (subCells sboxM m.s) (nibbles (mantisConstant i)))
    (xorCells (nibbles k) (tweakH m.t)))), fun n hn => ?_, fun n hn => cellAt_mixColumnsM _ hn⟩
  have hj := pM_lt n hn
  rw [permuteCells, cellAt_permute _ _ _ hn, cellAt_xorCells _ _ _ hj, cellAt_xorCells _ _ _ hj,
    cellAt_xorCells _ _ _ hj, cellAt_subCells _ _ hj, ← BitVec.xor_assoc]
  rfl

/-- A reverse round mixes, permutes, removes key, tweak and constant, and substitutes (42_block_crypt.md R228). -/
theorem cellAt_mantisInvRound (k : BitVec 64) (i : Nat) (m : MantisState) {n : Nat} (hn : n < 16) :
    cellAt (mantisInvRound k i m).s n = sboxM (cellAt (mixColumnsM m.s) (pMInv.getD n 0) ^^^ cellAt (nibbles k) n ^^^
      cellAt m.t n ^^^ cellAt (nibbles (mantisConstant i)) n) := by
  rw [mantisInvRound, cellAt_subCells _ _ hn, cellAt_xorCells _ _ _ hn, cellAt_xorCells _ _ _ hn,
    cellAt_xorCells _ _ _ hn, invPermuteCells, cellAt_permute _ _ _ hn, ← BitVec.xor_assoc]

/-- The middle mixes the substituted cells and substitutes again (42_block_crypt.md R227). -/
theorem cellAt_mantisMiddle (s : Cells 4) {n : Nat} (hn : n < 16) :
    cellAt (mantisMiddle s) n = sboxM (sboxM (cellAt s (n % 4)) ^^^ sboxM (cellAt s (n % 4 + 4)) ^^^
      sboxM (cellAt s (n % 4 + 8)) ^^^ sboxM (cellAt s (n % 4 + 12)) ^^^ sboxM (cellAt s n)) := by
  rw [mantisMiddle, cellAt_subCells _ _ hn, cellAt_mixColumnsM _ hn, cellAt_subCells _ _ (by omega),
    cellAt_subCells _ _ (by omega), cellAt_subCells _ _ (by omega), cellAt_subCells _ _ (by omega),
    cellAt_subCells _ _ hn]

/-! ### Mantis rounds and the block function -/

theorem mantisForward_eq_foldl (k : BitVec 64) (n : Nat) (m : MantisState) :
    mantisForward k n m = (List.range n).foldl (fun x i => mantisRound k i x) m := by
  induction n with
  | zero => rfl
  | succ n ih => rw [mantisForward, ih, List.range_succ, List.foldl_append]; rfl

theorem mantisReverse_eq_foldl (k : BitVec 64) (n : Nat) (m : MantisState) :
    mantisReverse k n m = (List.range n).reverse.foldl (fun x i => mantisInvRound k i x) m := by
  induction n generalizing m with
  | zero => rfl
  | succ n ih => rw [mantisReverse, ih, List.range_succ, List.reverse_concat, List.foldl_cons]

theorem mantisRoundCells : MantisRoundCells := by
  refine ⟨fun x n hn => toNat_cellAt_nibbles x hn, fun k i m => ⟨cellAt_mantisRound k i m,
    fun n hn => cellAt_permute pH m.t n hn, fun n hn => ?_, fun n hn => cellAt_permute pHInv m.t n hn⟩,
    fun s n hn => cellAt_mantisMiddle s hn, fun k n m => ⟨mantisForward_eq_foldl k n m, mantisReverse_eq_foldl k n m⟩⟩
  rw [cellAt_mantisInvRound k i m hn, cellAt_mixColumnsM _ (pMInv_lt n hn)]
  rfl

/-- `h'` undoes `h` (40_engines.md R138). -/
theorem tweakHInv_tweakH (t : Cells w) : tweakHInv (tweakH t) = t := rfl

/-- As many reverse rounds as forward rounds bring the tweak back (42_block_crypt.md R229). -/
theorem mantis_tweak_restored (k k' : BitVec 64) (n : Nat) (m : MantisState) (s : Cells 4) :
    (mantisReverse k' n ⟨s, (mantisForward k n m).t⟩).t = m.t := by
  rw [mantisReverse_tweak, mantisForward_tweak]
  exact Function.LeftInverse.iterate tweakHInv_tweakH n m.t

/-- A whitening XORs both keys and the tweak into every cell (42_block_crypt.md R229). -/
theorem mantisWhiten_s (a b : BitVec 64) {t : BitVec 64} {m : MantisState} (h : m.t = nibbles t) :
    (mantisWhiten a b m).s = xorCells m.s (nibbles (a ^^^ b ^^^ t)) := by
  rw [nibbles_xor (a ^^^ b) t, ← h]
  rfl

theorem mantisCryptComposition : MantisCryptComposition := by
  intro slot b t
  have htweak (s : Cells 4) := mantis_tweak_restored slot.k1 (slot.k1 ^^^ mantisAlpha) slot.rounds
    (mantisWhiten slot.k0 slot.k1 ⟨cells4 b, nibbles t⟩) s
  refine ⟨(mantisWhiten slot.k0 slot.k1 ⟨cells4 b, nibbles t⟩).s, fun n hn => ?_, htweak _, length_mantisCrypt slot b t,
    fun n hn => ?_⟩
  · rw [mantisWhiten_s _ _ rfl, cellAt_xorCells _ _ _ hn, BitVec.toNat_xor, toNat_cellAt_cells4 b (c := .mantis) (by decide) hn]
  · rw [mantisCrypt, serialCell_bytes4 (c := .mantis) _ (by decide) hn, mantisWhiten_s _ _ (htweak _),
      cellAt_xorCells _ _ _ hn]
    rfl

/-- Settles O39: the table of constants, the rounds step by step, and MantisCrypt with its tweak brought back. -/
theorem mantisRoundCellByCell : Obligations.MantisRoundCellByCell :=
  ⟨rfl, mantisRoundCells, mantisCryptComposition⟩

end Sys2Proof.Machine
end

section
/-! PROOF. The decoder and the encoder undo each other: what the decoder accepts, and the fields of a word as the bits
that the encoder puts there (30_encoding.md R91-R101, R103). -/

namespace Sys2Proof

/-! ### What the decoder accepts (30_encoding.md R101, R103) -/

/-- The fields of a word pass checks 4 to 8 of 30_encoding.md R101 in a row of the opcode map. -/
structure OpRow.Passes (row : OpRow) (c : Cipher) (n : Bool) (l : BitVec 9) (r : BitVec 4) (m : Bool) : Prop where
  cipher : row.legal c = true
  nullp : n = true → row.pointer = true
  len : l ≠ 0 → row.usesLen = true
  rounds : r ≠ 0 → row.usesRounds c = true
  mode : m = true → row.usesMode c = true

section Rows

variable {row : OpRow} {c : Cipher} {n : Bool} {l : BitVec 9} {r : BitVec 4} {m : Bool}

theorem decodeRow_eq_ok {i : Instr} :
    decodeRow row c n l r m = .ok i ↔ row.Passes c n l r m ∧ row.build c n l r m = i := by
  unfold decodeRow
  split_ifs with hc hn hl hr hm
  · exact ⟨nofun, fun h => absurd h.1.cipher (by simp [hc])⟩
  · exact ⟨nofun, fun h => absurd (h.1.nullp hn.1) (by simp [hn])⟩
  · exact ⟨nofun, fun h => absurd (h.1.len hl.1) (by simp [hl])⟩
  · exact ⟨nofun, fun h => absurd (h.1.rounds hr.1) (by simp [hr])⟩
  · exact ⟨nofun, fun h => absurd (h.1.mode hm.1) (by simp [hm])⟩
  · have hpasses : row.Passes c n l r m := by constructor <;> simp_all
    simp [hpasses]

/-- The decoder accepts a word just when its reserved bits are 0, its OP and its CIPHER are mapped, and its fields pass
the checks of its row. -/
theorem decode_eq_ok {w : Word} {i : Instr} :
    decode w = .ok i ↔ rsvField w = 0 ∧ ∃ row c, opRow (opField w) = some row ∧ cipherOf (cipherField w) = some c ∧
      row.Passes c (nullpField w) (lenField w) (roundsField w) (modeField w) ∧
      row.build c (nullpField w) (lenField w) (roundsField w) (modeField w) = i := by
  unfold decode
  split_ifs with hrsv
  · exact ⟨nofun, fun h => absurd h.1 hrsv⟩
  · rw [not_not] at hrsv
    cases hrow : opRow (opField w) with
    | none => simp [hrsv]
    | some row =>
      cases hc : cipherOf (cipherField w) with
      | none => simp [hrsv]
      | some c => simp [hrsv, decodeRow_eq_ok]

theorem passes_plainRow {legal : Cipher → Bool} {build : Cipher → Instr} :
    (plainRow legal build).Passes c n l r m ↔ legal c = true ∧ n = false ∧ l = 0 ∧ r = 0 ∧ m = false := by
  constructor
  · rintro ⟨hc, hn, hl, hr, hm⟩
    simp_all [plainRow, noCipher]
  · rintro ⟨hc, rfl, rfl, rfl, rfl⟩
    exact ⟨hc, nofun, fun h => absurd rfl h, fun h => absurd rfl h, nofun⟩

theorem passes_operandRow {legal : Cipher → Bool} {build : Cipher → Bool → BitVec 9 → Instr} :
    (operandRow legal build).Passes c n l r m ↔ legal c = true ∧ r = 0 ∧ m = false := by
  constructor
  · rintro ⟨hc, -, -, hr, hm⟩
    simp_all [operandRow, noCipher]
  · rintro ⟨hc, rfl, rfl⟩
    exact ⟨hc, fun _ => rfl, fun _ => rfl, fun h => absurd rfl h, nofun⟩

/-- The row of SET_KEY. -/
def setKeyRow : OpRow := ⟨anyCipher, true, true, Cipher.isMantis, Cipher.isMantis, .setKey⟩

/-- The row of CTR_SET_KEY. -/
def ctrSetKeyRow : OpRow := ⟨anyCipher, true, true, Cipher.isMantis, noCipher, fun c n l r _ => .ctrSetKey c n l r⟩

theorem passes_setKeyRow :
    setKeyRow.Passes c n l r m ↔ (Instr.setKey c n l r m).wellFormed = true := by
  constructor
  · rintro ⟨-, -, -, hr, hm⟩
    cases c <;> simp_all [setKeyRow, Instr.wellFormed, Cipher.isMantis]
  · intro h
    have hfields : c.isMantis = true ∨ r = 0 ∧ m = false := by simpa [Instr.wellFormed] using h
    exact ⟨rfl, fun _ => rfl, fun _ => rfl, fun hr => hfields.resolve_right fun h0 => hr h0.1,
      fun hm => hfields.resolve_right fun h0 => by simp [hm] at h0⟩

theorem passes_ctrSetKeyRow :
    ctrSetKeyRow.Passes c n l r m ↔ (Instr.ctrSetKey c n l r).wellFormed = true ∧ m = false := by
  constructor
  · rintro ⟨-, -, -, hr, hm⟩
    cases c <;> simp_all [ctrSetKeyRow, noCipher, Instr.wellFormed, Cipher.isMantis]
  · rintro ⟨h, rfl⟩
    have hfields : c.isMantis = true ∨ r = 0 := by simpa [Instr.wellFormed] using h
    exact ⟨rfl, fun _ => rfl, fun _ => rfl, hfields.resolve_right, nofun⟩

/-! ### Decoding an encoding -/

/-- A packed word whose fields pass the checks of its row decodes to the command that the row builds of them. -/
theorem decode_packWord {op : Word}
    (hop : op.toNat < 32) (hrow : opRow (op.setWidth 5) = some row) (h : row.Passes c n l r m) :
    decode (packWord op c n l r m) = .ok (row.build c n l r m) := by
  refine decode_eq_ok.mpr ⟨rsvField_packWord op c n l r m hop, row, c, ?_, ?_, ?_⟩
  · rw [opField_packWord, hrow]
  · rw [cipherField_packWord op c n l r m hop, cipherOf_code]
  · rw [nullpField_packWord op c n l r m hop, lenField_packWord op c n l r m hop, roundsField_packWord op c n l r m hop,
      modeField_packWord op c n l r m hop]
    exact ⟨h, rfl⟩

theorem decode_packWord_plain {op : Word} {legal : Cipher → Bool} {build : Cipher → Instr}
    (hop : op.toNat < 32) (hrow : opRow (op.setWidth 5) = some (plainRow legal build)) (hc : legal c = true) :
    decode (packWord op c false 0 0 false) = .ok (build c) :=
  decode_packWord hop hrow (passes_plainRow.mpr ⟨hc, rfl, rfl, rfl, rfl⟩)

theorem decode_packWord_operand {op : Word} {legal : Cipher → Bool} {build : Cipher → Bool → BitVec 9 → Instr}
    (hop : op.toNat < 32)
    (hrow : opRow (op.setWidth 5) = some (operandRow legal build)) (hc : legal c = true) :
    decode (packWord op c n l 0 false) = .ok (build c n l) :=
  decode_packWord hop hrow (passes_operandRow.mpr ⟨hc, rfl, rfl⟩)

end Rows

/-- Settles O1: one case for each shape of row, whose checks are the command's well-formedness. -/
theorem decodeInvertsEncode : Obligations.DecodeInvertsEncode := by
  intro i h
  cases i with
  | setKey c n l r m => exact decode_packWord (row := setKeyRow) (by decide) rfl (passes_setKeyRow.mpr h)
  | ctrSetKey c n l r => exact decode_packWord (row := ctrSetKeyRow) (by decide) rfl (passes_ctrSetKeyRow.mpr ⟨h, rfl⟩)
  | setTweakedKey c n l | setTweak c n l | ctrSetTweakedKey c n l | ctrSetTweak c n l | ctrSetCounter c n l
  | ctrEncrypt c n l => exact decode_packWord_operand (by decide) rfl h
  | swapModes c | clearKey c | encryptBlock c | decryptBlock c | cryptTweaked c | ctrInit c | ctrCleanup c | primSbox c
  | primInvSbox c | primShiftRows c | primInvShiftRows c | primMixColumns c | primInvMixColumns c | primTweakPerm c
  | primInvTweakPerm c | primLfsr2 c | primLfsr3 c => exact decode_packWord_plain (by decide) rfl h

/-! ### The fields of a word as numbers (30_encoding.md R91-R98) -/

theorem toNat_opField (w : Word) : (opField w).toNat = w.toNat % 32 := by
  simp [opField]

theorem toNat_cipherField (w : Word) : (cipherField w).toNat = w.toNat / 32 % 4 := by
  simp [cipherField, Nat.shiftRight_eq_div_pow]

theorem toNat_nullpField (w : Word) : (nullpField w).toNat = w.toNat / 128 % 2 := Nat.toNat_testBit _ _

theorem toNat_lenField (w : Word) : (lenField w).toNat = w.toNat / 256 % 512 := by
  simp [lenField, Nat.shiftRight_eq_div_pow]

theorem toNat_roundsField (w : Word) : (roundsField w).toNat = w.toNat / 131072 % 16 := by
  simp [roundsField, Nat.shiftRight_eq_div_pow]

theorem toNat_modeField (w : Word) : (modeField w).toNat = w.toNat / 2097152 % 2 := Nat.toNat_testBit _ _

theorem toNat_rsvField (w : Word) : (rsvField w).toNat = w.toNat / 4194304 := by
  have hw := w.isLt
  simp only [rsvField, BitVec.extractLsb'_toNat, Nat.shiftRight_eq_div_pow]
  omega

/-- A word has no bits but those of its seven fields. -/
theorem word_ext {v w : Word} (hop : opField v = opField w) (hcipher : cipherField v = cipherField w)
    (hnullp : nullpField v = nullpField w) (hlen : lenField v = lenField w) (hrounds : roundsField v = roundsField w)
    (hmode : modeField v = modeField w) (hrsv : rsvField v = rsvField w) : v = w := by
  have hop := congrArg BitVec.toNat hop
  have hcipher := congrArg BitVec.toNat hcipher
  have hnullp := congrArg Bool.toNat hnullp
  have hlen := congrArg BitVec.toNat hlen
  have hrounds := congrArg BitVec.toNat hrounds
  have hmode := congrArg Bool.toNat hmode
  have hrsv := congrArg BitVec.toNat hrsv
  simp only [toNat_opField, toNat_cipherField, toNat_nullpField, toNat_lenField, toNat_roundsField, toNat_modeField,
    toNat_rsvField] at hop hcipher hnullp hlen hrounds hmode hrsv
  exact BitVec.eq_of_toNat_eq (by omega)

/-! ### Encoding what was decoded -/

/-- The CIPHER field that names a cipher is that cipher's. -/
theorem cipherOf_eq_some {f : BitVec 2} {c : Cipher} : cipherOf f = some c ↔ c.code.setWidth 2 = f := by
  revert f
  cases c <;> decide

/-- Packing the fields of a word with reserved bits 0 and a legal CIPHER gives the word back. -/
theorem packWord_fields {w : Word} {c : Cipher} (hrsv : rsvField w = 0) (hc : cipherOf (cipherField w) = some c) :
    packWord ((opField w).setWidth 32) c (nullpField w) (lenField w) (roundsField w) (modeField w) = w := by
  have hop : ((opField w).setWidth 32).toNat < 32 := by
    rw [BitVec.toNat_setWidth_of_le (by decide)]
    exact (opField w).isLt
  apply word_ext
  · rw [opField_packWord, BitVec.setWidth_setWidth_of_le _ (by decide), BitVec.setWidth_eq]
  · rw [cipherField_packWord _ _ _ _ _ _ hop, cipherOf_eq_some.mp hc]
  · rw [nullpField_packWord _ _ _ _ _ _ hop]
  · rw [lenField_packWord _ _ _ _ _ _ hop]
  · rw [roundsField_packWord _ _ _ _ _ _ hop]
  · rw [modeField_packWord _ _ _ _ _ _ hop]
  · rw [rsvField_packWord _ _ _ _ _ _ hop, hrsv]

/-- Every command that a row builds of fields that pass its checks is well formed and is encoded as those fields under
`op`. -/
def OpRow.Encodes (row : OpRow) (op : Word) : Prop :=
  ∀ c n l r m, row.Passes c n l r m →
    (row.build c n l r m).wellFormed = true ∧ encode (row.build c n l r m) = packWord op c n l r m

theorem encodes_plainRow {legal : Cipher → Bool} {build : Cipher → Instr} {op : Word}
    (hwf : ∀ c, (build c).wellFormed = legal c) (hencode : ∀ c, encode (build c) = packWord op c false 0 0 false) :
    (plainRow legal build).Encodes op := by
  intro c n l r m h
  obtain ⟨hc, rfl, rfl, rfl, rfl⟩ := passes_plainRow.mp h
  exact ⟨(hwf c).trans hc, hencode c⟩

theorem encodes_operandRow {legal : Cipher → Bool} {build : Cipher → Bool → BitVec 9 → Instr} {op : Word}
    (hwf : ∀ c n l, (build c n l).wellFormed = legal c)
    (hencode : ∀ c n l, encode (build c n l) = packWord op c n l 0 false) : (operandRow legal build).Encodes op := by
  intro c n l r m h
  obtain ⟨hc, rfl, rfl⟩ := passes_operandRow.mp h
  exact ⟨(hwf c n l).trans hc, hencode c n l⟩

theorem encodes_setKeyRow : setKeyRow.Encodes 0x01 := fun _ _ _ _ _ h => ⟨passes_setKeyRow.mp h, rfl⟩

theorem encodes_ctrSetKeyRow : ctrSetKeyRow.Encodes 0x0A := by
  intro c n l r m h
  obtain ⟨hwf, rfl⟩ := passes_ctrSetKeyRow.mp h
  exact ⟨hwf, rfl⟩

/-- Every row of the opcode map encodes its commands under its own OP. -/
theorem opRow_encodes {op : BitVec 5} {row : OpRow} (h : opRow op = some row) : row.Encodes (op.setWidth 32) := by
  rw [← BitVec.ofNat_toNat]
  unfold opRow at h
  split at h
  case h_26 => contradiction
  all_goals
    rename_i hop
    rw [hop]
    obtain rfl := Option.some.inj h
  case h_1 => exact encodes_setKeyRow
  case h_10 => exact encodes_ctrSetKeyRow
  case h_2 | h_3 | h_11 | h_12 | h_13 | h_14 => exact encodes_operandRow (fun _ _ _ => rfl) fun _ _ _ => rfl
  all_goals exact encodes_plainRow (fun _ => rfl) fun _ => rfl

/-- Settles O2: the fields of an accepted word are those its command is encoded with, and a word is its fields. -/
theorem encodeInvertsDecode : Obligations.EncodeInvertsDecode := by
  intro w i h
  obtain ⟨hrsv, row, c, hrow, hc, hpasses, rfl⟩ := decode_eq_ok.mp h
  obtain ⟨hwf, hencode⟩ := opRow_encodes hrow _ _ _ _ _ hpasses
  exact ⟨hwf, hencode.trans (packWord_fields hrsv hc)⟩

end Sys2Proof
end

section
/-! PROOF. The decoder's checks as the conditions on the bits of a word (30_encoding.md R100, R101). -/

namespace Sys2Proof.Machine

/-- The columns of 30_encoding.md R100 for one row, read off its OP. -/
structure RowColumns (row : OpRow) (op : Nat) : Prop where
  cipher : ∀ c, row.legal c = false ↔
    ((op = 0x02 ∨ op = 0x07 ∨ op = 0x0B ∨ op = 0x18 ∨ op = 0x19) ∧ c = .mantis) ∨ ((op = 0x04 ∨ op = 0x08) ∧ c ≠ .mantis)
  nullp : row.pointer = false ↔ ¬ OperandOpcode op
  len : row.usesLen = false ↔ ¬ OperandOpcode op
  rounds : ∀ c, row.usesRounds c = false ↔ ¬ ((op = 0x01 ∨ op = 0x0A) ∧ c = .mantis)
  mode : ∀ c, row.usesMode c = false ↔ ¬ (op = 0x01 ∧ c = .mantis)

/-- Each row of the opcode map has the columns of its OP. -/
theorem opRow_columns {op : BitVec 5} {row : OpRow} (h : opRow op = some row) : RowColumns row op.toNat := by
  unfold opRow at h
  split at h
  case h_26 => contradiction
  all_goals
    rename_i hop
    rw [hop]
    obtain rfl := Option.some.inj h
    exact ⟨by rintro (_ | _ | _) <;> decide, by simp [OperandOpcode, plainRow, operandRow],
      by simp [OperandOpcode, plainRow, operandRow], by rintro (_ | _ | _) <;> decide, by rintro (_ | _ | _) <;> decide⟩

/-- The reserved OP values (30_encoding.md R102). -/
theorem opRow_isNone : ∀ {op : BitVec 5}, (opRow op).isNone = true ↔ op.toNat = 0 ∨ 0x1A ≤ op.toNat := by
  decide

/-- The reserved CIPHER value (30_encoding.md R93). -/
theorem cipherOf_eq_none : ∀ {f : BitVec 2}, cipherOf f = none ↔ f.toNat = 3 := by
  decide

theorem toNat_of_cipherOf {f : BitVec 2} {c : Cipher} (h : cipherOf f = some c) :
    f.toNat ≠ 3 ∧ (f.toNat = 2 ↔ c = .mantis) := by
  rw [← cipherOf_eq_some.mp h]
  cases c <;> decide

/-- The checks that fields can fail in a row. -/
theorem not_passes_iff {row : OpRow} {c : Cipher} {n : Bool} {l : BitVec 9} {r : BitVec 4} {m : Bool} :
    ¬ row.Passes c n l r m ↔ row.legal c = false ∨ (n = true ∧ row.pointer = false) ∨ (l ≠ 0 ∧ row.usesLen = false) ∨
      (r ≠ 0 ∧ row.usesRounds c = false) ∨ (m = true ∧ row.usesMode c = false) := by
  have hiff : row.Passes c n l r m ↔ row.legal c = true ∧ (n = true → row.pointer = true) ∧
      (l ≠ 0 → row.usesLen = true) ∧ (r ≠ 0 → row.usesRounds c = true) ∧ (m = true → row.usesMode c = true) :=
    ⟨fun h => ⟨h.cipher, h.nullp, h.len, h.rounds, h.mode⟩, fun ⟨hc, hn, hl, hr, hm⟩ => ⟨hc, hn, hl, hr, hm⟩⟩
  rw [hiff]
  simp only [not_and_or, Classical.not_imp, Bool.not_eq_true]

theorem toNat_eq_zero {n : Nat} {x : BitVec n} : x.toNat = 0 ↔ x = 0 := BitVec.toNat_inj (y := 0)

/-- With the reserved bits 0, a mapped OP and a legal CIPHER the conditions that are left are the checks of the row. -/
theorem illegalWord_iff_not_passes {w : Word} {row : OpRow} {c : Cipher} (hrsv : rsvField w = 0)
    (hrow : opRow (opField w) = some row) (hc : cipherOf (cipherField w) = some c) :
    IllegalWord w ↔ ¬ row.Passes c (nullpField w) (lenField w) (roundsField w) (modeField w) := by
  obtain ⟨hcipher, hnullp, hlen, hrounds, hmode⟩ := opRow_columns hrow
  obtain ⟨hthree, hmantis⟩ := toNat_of_cipherOf hc
  have hzero : (rsvField w).toNat = 0 := toNat_eq_zero.mpr hrsv
  have hmapped : ¬ (opField w).toNat = 0 ∧ ¬ 0x1A ≤ (opField w).toNat := by
    rw [← not_or, ← opRow_isNone, hrow]
    exact Bool.false_ne_true
  rw [not_passes_iff, hcipher, hnullp, hlen, hrounds, hmode]
  simp only [IllegalWord, ← toNat_opField, ← toNat_cipherField, ← toNat_nullpField, ← toNat_lenField,
    ← toNat_roundsField, ← toNat_modeField, ← toNat_rsvField]
  simp only [toNat_eq_zero (x := lenField w), toNat_eq_zero (x := roundsField w), Bool.toNat_eq_one,
    Bool.toNat_eq_zero, Bool.not_eq_false, hzero, hmapped, hthree, hmantis, ne_eq, not_true, false_or, or_assoc]

theorem illegalWord_of_rsvField {w : Word} (h : rsvField w ≠ 0) : IllegalWord w :=
  .inl (toNat_rsvField w ▸ fun h0 => h (toNat_eq_zero.mp h0))

theorem illegalWord_of_opField {w : Word} (h : opRow (opField w) = none) : IllegalWord w := by
  have hop := opRow_isNone.mp (Option.isNone_iff_eq_none.mpr h)
  rw [toNat_opField] at hop
  exact .inr (hop.imp_right .inl)

theorem illegalWord_of_cipherField {w : Word} (h : cipherOf (cipherField w) = none) : IllegalWord w :=
  .inr (.inr (.inr (.inl (toNat_cipherField w ▸ cipherOf_eq_none.mp h))))

/-- A word meets a condition of 30_encoding.md R101 just when the decoder accepts it as no command: one case for each
of the decoder's ways out. -/
theorem illegalWord_iff_rejected {w : Word} : IllegalWord w ↔ ∀ i, decode w ≠ .ok i := by
  simp only [ne_eq, decode_eq_ok]
  by_cases hrsv : rsvField w = 0
  · cases hrow : opRow (opField w) with
    | none => simp [illegalWord_of_opField hrow]
    | some row =>
      cases hc : cipherOf (cipherField w) with
      | none => simp [illegalWord_of_cipherField hc]
      | some c => simp [illegalWord_iff_not_passes hrsv hrow hc, hrsv]
  · exact iff_of_true (illegalWord_of_rsvField hrsv) fun _ h => hrsv h.1

/-- Settles O3: the conditions are the decoder's checks, and the core's turn raises ILLEGAL where they fail. -/
theorem illegalWordsCompleteWithCodeOne : Obligations.IllegalWordsCompleteWithCodeOne := by
  refine ⟨fun w => illegalWord_iff_rejected, fun s l hcore hl hill => ?_⟩
  cases hd : decode l.word with
  | ok i => exact absurd hd (illegalWord_iff_rejected.mp hill i)
  | error why =>
    have hraise : step s = .next (s.popTurn.raise .illegal) := by
      simp [step_of_core hcore, State.coreTurn, State.fetch, hl, hd, State.popTurn]
    rw [hraise, raise_eq_failed]
    rfl

/-- Settles O4: each word is read by evaluating the decoder. -/
theorem exampleWordsDecode : Obligations.ExampleWordsDecode := by
  unfold Obligations.ExampleWordsDecode
  decide

end Sys2Proof.Machine
end

section
/-! PROOF. The engine functions on cells and on their values, the PRIM_* commands that publish them, and the inversions of
the engine functions (40_engines.md R120-R155). -/

namespace Sys2Proof.Machine

variable {w : Nat}

/-! ### Engine functions on the values of the cells -/

/-- The engine function `g` acts on arrays of cells as `f` acts on the values of their cells. -/
def ActsOnValues (g : Cells w → Cells w) (f : (Nat → Nat) → Nat → Nat) : Prop :=
  ∀ (x : Cells w) (v : Nat → Nat), (∀ k < 16, (cellAt x k).toNat = v k) → ∀ n < 16, (cellAt (g x) n).toNat = f v n

/-- A function of single cells applied to every cell. -/
theorem actsOnValues_mapCells {t : BitVec w → BitVec w} {f : (Nat → Nat) → Nat → Nat}
    (ht : ∀ y v n, y.toNat = v n → (t y).toNat = f v n) : ActsOnValues (mapCells t) f := by
  intro x v hv n hn
  rw [cellAt_mapCells t x n hn]
  exact ht _ v n (hv n hn)

/-- An S-box applied to every cell (40_engines.md R120). -/
theorem actsOnValues_subCells (t : BitVec w → BitVec w) :
    ActsOnValues (subCells t) fun v n => (t (BitVec.ofNat w (v n))).toNat :=
  actsOnValues_mapCells fun y _ _ hy => by rw [← hy, BitVec.ofNat_toNat, BitVec.setWidth_eq]

/-- A permutation of the cells by a vector whose entries name cells (00_scope.md R11). -/
theorem actsOnValues_permute {p : List Nat} (hp : ∀ n < 16, p.getD n 0 < 16) :
    ActsOnValues (permute (w := w) p) fun v n => v (p.getD n 0) := by
  intro x v hv n hn
  rw [cellAt_permute p x n hn, hv _ (hp n hn)]

/-- A cell in one of the four rows of its column (00_scope.md R11). -/
theorem forall_cell_of_columns {P : Nat → Prop} (h : ∀ c < 4, P c ∧ P (4 + c) ∧ P (8 + c) ∧ P (12 + c)) :
    ∀ n < 16, P n := by
  intro n hn
  obtain ⟨h0, h1, h2, h3⟩ := h (n % 4) (by omega)
  have hrow : n = n % 4 ∨ n = 4 + n % 4 ∨ n = 8 + n % 4 ∨ n = 12 + n % 4 := by omega
  rcases hrow with e | e | e | e <;> rw [e] <;> assumption

/-- The rows of MixColumns (40_engines.md R134). -/
theorem actsOnValues_mixColumns : ActsOnValues (mixColumns (w := w)) fun v n =>
    if n < 4 then v n ^^^ v (n + 8) ^^^ v (n + 12)
    else if n < 8 then v (n - 4)
    else if n < 12 then v (n - 4) ^^^ v n
    else v (n - 12) ^^^ v (n - 4) := by
  refine fun x v hv => forall_cell_of_columns fun c hc => ?_
  obtain ⟨h0, h1, h2, h3⟩ := cellAt_mixColumns x hc
  rw [h0, h1, h2, h3]
  simp (disch := omega) only [BitVec.toNat_xor, hv]
  interval_cases c <;> exact ⟨rfl, rfl, rfl, rfl⟩

/-- The rows of InvMixColumns (40_engines.md R135). -/
theorem actsOnValues_invMixColumns : ActsOnValues (invMixColumns (w := w)) fun v n =>
    if n < 4 then v (n + 4)
    else if n < 8 then v n ^^^ v (n + 4) ^^^ v (n + 8)
    else if n < 12 then v (n - 4) ^^^ v (n + 4)
    else v (n - 12) ^^^ v n := by
  refine fun x v hv => forall_cell_of_columns fun c hc => ?_
  obtain ⟨h0, h1, h2, h3⟩ := cellAt_invMixColumns x hc
  rw [h0, h1, h2, h3]
  simp (disch := omega) only [BitVec.toNat_xor, hv]
  interval_cases c <;> exact ⟨rfl, rfl, rfl, rfl⟩

/-- MixColumnsM XORs its column into every cell (40_engines.md R136). -/
theorem actsOnValues_mixColumnsM : ActsOnValues (mixColumnsM (w := w)) fun v n =>
    v (n % 4) ^^^ v (n % 4 + 4) ^^^ v (n % 4 + 8) ^^^ v (n % 4 + 12) ^^^ v n := by
  intro x v hv n hn
  rw [cellAt_mixColumnsM x hn]
  simp (disch := omega) only [BitVec.toNat_xor, hv]

/-! ### PRIM_* commands (40_engines.md R145) -/

section PrimCommands

variable {i : Instr} {c : Cipher} {g64 gM : Cells 4 → Cells 4} {g128 : Cells 8 → Cells 8} {f : (Nat → Nat) → Nat → Nat}

/-- The one of three engine functions that PRIM uses for `c` acts on the values of the cells as `f` does. -/
def ActsFor (c : Cipher) (g64 : Cells 4 → Cells 4) (g128 : Cells 8 → Cells 8) (gM : Cells 4 → Cells 4)
    (f : (Nat → Nat) → Nat → Nat) : Prop :=
  match c with
  | .s64 => ActsOnValues g64 f
  | .s128 => ActsOnValues g128 f
  | .mantis => ActsOnValues gM f

theorem actsFor_skinny (hc : c ≠ .mantis) (h64 : ActsOnValues g64 f) (h128 : ActsOnValues g128 f) :
    ActsFor c g64 g128 gM f := by
  cases c with
  | s64 => exact h64
  | s128 => exact h128
  | mantis => contradiction

/-- The cells of the block PRIM makes (40_engines.md R145). -/
theorem serialCell_primBlock (hg : ActsFor c g64 g128 gM f) {b : List Byte} {v : Nat → Nat}
    (hv : ∀ n < 16, serialCell c b n = v n) {n : Nat} (hn : n < 16) :
    serialCell c (primBlock g64 g128 gM c b) n = f v n := by
  cases c with
  | s64 | mantis =>
    rw [primBlock, serialCell_bytes4 _ (by decide) hn]
    exact hg _ _ (fun k hk => (toNat_cellAt_cells4 b (by decide) hk).trans (hv k hk)) n hn
  | s128 =>
    rw [primBlock, serialCell_bytes8]
    exact hg _ _ (fun k hk => (toNat_cellAt_cells8 b hk).trans (hv k hk)) n hn

/-- A well-formed PRIM_* command always completes and publishes its engine function's block. -/
theorem primComputes_of_actsFor (hexec : ∀ s, exec i s = primCommand i (primBlock g64 g128 gM) c s)
    (hi : i.wellFormed = true) (hg : ActsFor c g64 g128 gM f) : PrimComputes i c f := by
  intro s
  have hlen := length_primBlock g64 g128 gM c (s.blockOperand c)
  have hoperand (n : Nat) (hn : n < 16) : serialCell c (s.blockOperand c) n = serialCell c s.latch.blockIn n :=
    serialCell_congr (fun k hk => getD_take _ hk) hn
  exact ⟨_, _, (hexec s).trans (command_of_passed hi (List.forall_mem_nil _)), hlen,
    blockPublished_putBlockOut s (hlen.le.trans (blockSize_le c)), fun n hn => serialCell_primBlock hg hoperand hn⟩

/-- A PRIM_* command on a cipher that is not legal for it only fails (40_engines.md R154, R155). -/
theorem primCommand_of_illegal (hi : i.wellFormed = false) (block : Cipher → List Byte → List Byte) (c : Cipher)
    (s : State) : primCommand i block c s = .next (failed s 1) := command_of_illegal hi

end PrimCommands

/-- Settles O51: every cell goes through the cipher's table. -/
theorem primSboxesApplyTables : Obligations.PrimSboxesApplyTables :=
  ⟨primComputes_of_actsFor (fun _ => rfl) rfl (actsOnValues_subCells sbox4),
    primComputes_of_actsFor (fun _ => rfl) rfl (actsOnValues_subCells sbox8),
    primComputes_of_actsFor (fun _ => rfl) rfl (actsOnValues_subCells sboxM),
    primComputes_of_actsFor (fun _ => rfl) rfl (actsOnValues_subCells sbox4Inv),
    primComputes_of_actsFor (fun _ => rfl) rfl (actsOnValues_subCells sbox8Inv),
    primComputes_of_actsFor (fun _ => rfl) rfl (actsOnValues_subCells sboxM)⟩

/-! ### The vectors of the permutations name cells (40_engines.md R130, R131, R137, R138) -/

theorem pSR_lt : ∀ n < 16, pSR.getD n 0 < 16 := by decide

theorem pSRInv_lt : ∀ n < 16, pSRInv.getD n 0 < 16 := by decide

theorem pT_lt : ∀ n < 16, pT.getD n 0 < 16 := by decide

theorem pTInv_lt : ∀ n < 16, pTInv.getD n 0 < 16 := by decide

theorem pH_lt : ∀ n < 16, pH.getD n 0 < 16 := by decide

theorem pHInv_lt : ∀ n < 16, pHInv.getD n 0 < 16 := by decide

/-- A permutation of the cells of both Skinny families. -/
theorem actsFor_skinny_permute {c : Cipher} (hc : c ≠ .mantis) {gM : Cells 4 → Cells 4} {p : List Nat}
    (hp : ∀ n < 16, p.getD n 0 < 16) : ActsFor c (permute p) (permute p) gM fun v n => v (p.getD n 0) :=
  actsFor_skinny hc (actsOnValues_permute hp) (actsOnValues_permute hp)

/-- Settles O52: each engine permutes by the written-out vector. -/
theorem primShiftRowsPermuteCells : Obligations.PrimShiftRowsPermuteCells :=
  ⟨fun _ hc => ⟨primComputes_of_actsFor (fun _ => rfl) rfl (actsFor_skinny_permute hc pSR_lt),
      primComputes_of_actsFor (fun _ => rfl) rfl (actsFor_skinny_permute hc pSRInv_lt)⟩,
    primComputes_of_actsFor (fun _ => rfl) rfl (actsOnValues_permute pM_lt),
    primComputes_of_actsFor (fun _ => rfl) rfl (actsOnValues_permute pMInv_lt)⟩

/-- Settles O53: each engine mixes row by row, and both Mantis commands use the one self-inverse matrix. -/
theorem primMixColumnsXorColumns : Obligations.PrimMixColumnsXorColumns := by
  refine ⟨fun c hc => ⟨?_, ?_⟩, fun i hi => ?_⟩
  · exact primComputes_of_actsFor (fun _ => rfl) rfl (actsFor_skinny hc actsOnValues_mixColumns actsOnValues_mixColumns)
  · exact primComputes_of_actsFor (fun _ => rfl) rfl
      (actsFor_skinny hc actsOnValues_invMixColumns actsOnValues_invMixColumns)
  · obtain rfl | rfl : i = .primMixColumns .mantis ∨ i = .primInvMixColumns .mantis := by simpa using hi
    · exact primComputes_of_actsFor (fun _ => rfl) rfl actsOnValues_mixColumnsM
    · exact primComputes_of_actsFor (fun _ => rfl) rfl actsOnValues_mixColumnsM

/-- Settles O54: each engine permutes by the written-out vector. -/
theorem primTweakPermsPermuteCells : Obligations.PrimTweakPermsPermuteCells :=
  ⟨fun _ hc => ⟨primComputes_of_actsFor (fun _ => rfl) rfl (actsFor_skinny_permute hc pT_lt),
      primComputes_of_actsFor (fun _ => rfl) rfl (actsFor_skinny_permute hc pTInv_lt)⟩,
    primComputes_of_actsFor (fun _ => rfl) rfl (actsOnValues_permute pH_lt),
    primComputes_of_actsFor (fun _ => rfl) rfl (actsOnValues_permute pHInv_lt)⟩

/-! ### The LFSRs as a shift and a feedback bit (40_engines.md R139, R140) -/

theorem toNat_lfsr2w4 : ∀ x : BitVec 4, (lfsr2w4 x).toNat =
    2 * x.toNat % 16 + if x.toNat.testBit 3 = x.toNat.testBit 2 then 0 else 1 := by decide

theorem toNat_lfsr3w4 : ∀ x : BitVec 4, (lfsr3w4 x).toNat =
    x.toNat / 2 + if x.toNat.testBit 0 = x.toNat.testBit 3 then 0 else 8 := by decide

theorem toNat_lfsr2w8 : ∀ x : Byte, (lfsr2w8 x).toNat =
    2 * x.toNat % 256 + if x.toNat.testBit 7 = x.toNat.testBit 5 then 0 else 1 := by decide +kernel

theorem toNat_lfsr3w8 : ∀ x : Byte, (lfsr3w8 x).toNat =
    x.toNat / 2 + if x.toNat.testBit 0 = x.toNat.testBit 6 then 0 else 128 := by decide +kernel

/-- Settles O55: every cell goes through the LFSR of its width, and the Mantis words are ill-formed. -/
theorem primLfsrsShiftCells : Obligations.PrimLfsrsShiftCells :=
  ⟨primComputes_of_actsFor (fun _ => rfl) rfl (actsOnValues_mapCells fun y _ _ hy => hy ▸ toNat_lfsr2w4 y),
    primComputes_of_actsFor (fun _ => rfl) rfl (actsOnValues_mapCells fun y _ _ hy => hy ▸ toNat_lfsr2w8 y),
    primComputes_of_actsFor (fun _ => rfl) rfl (actsOnValues_mapCells fun y _ _ hy => hy ▸ toNat_lfsr3w4 y),
    primComputes_of_actsFor (fun _ => rfl) rfl (actsOnValues_mapCells fun y _ _ hy => hy ▸ toNat_lfsr3w8 y),
    fun s => ⟨primCommand_of_illegal (i := .primLfsr2 .mantis) rfl primLfsr2Block .mantis s,
      primCommand_of_illegal (i := .primLfsr3 .mantis) rfl primLfsr3Block .mantis s⟩⟩

/-! ### Tables, networks and inversions (40_engines.md R122-R142) -/

/-- The S-box pairs undo each other over the whole cell domain (40_engines.md R129). -/
theorem sbox4_inverses : ∀ x, sbox4Inv (sbox4 x) = x ∧ sbox4 (sbox4Inv x) = x := by decide

theorem sbox8_inverses : ∀ x, sbox8Inv (sbox8 x) = x ∧ sbox8 (sbox8Inv x) = x := by decide +kernel

theorem sboxM_sboxM : ∀ x, sboxM (sboxM x) = x := by decide

/-- The LFSR pairs undo each other over the whole cell domain (40_engines.md R141). -/
theorem lfsrs_w4_inverses : ∀ x, lfsr3w4 (lfsr2w4 x) = x ∧ lfsr2w4 (lfsr3w4 x) = x := by decide

theorem lfsrs_w8_inverses : ∀ x, lfsr3w8 (lfsr2w8 x) = x ∧ lfsr2w8 (lfsr3w8 x) = x := by decide +kernel

/-- The S4 table is what the S4 network computes (40_engines.md R122). -/
theorem sbox4_eq_network : ∀ x : BitVec 4,
    let p := fun y : BitVec 4 => (s4Mix y).rotateLeft 1
    sbox4 x = s4Mix (p (p (p x))) := by decide

/-- The S8 table is what the S8 network computes (40_engines.md R125). -/
theorem sbox8_eq_network : ∀ x : Byte,
    let p := fun y : Byte => pickBits (s8Mix y) [2, 1, 7, 6, 4, 0, 3, 5]
    sbox8 x = pickBits (s8Mix (p (p (p x)))) [7, 6, 5, 4, 3, 1, 2, 0] := by decide +kernel

/-- In each row of the product of the two matrices every cell but the row's own occurs twice (40_engines.md R142). -/
theorem invMixColumns_mixColumns (s : Cells w) : invMixColumns (mixColumns s) = s := by
  refine cells_ext (forall_cell_of_columns fun c hc => ?_)
  obtain ⟨a0, a1, a2, a3⟩ := cellAt_mixColumns s hc
  obtain ⟨b0, b1, b2, b3⟩ := cellAt_invMixColumns (mixColumns s) hc
  rw [b0, b1, b2, b3, a0, a1, a2, a3]
  grind

theorem mixColumns_invMixColumns (s : Cells w) : mixColumns (invMixColumns s) = s := by
  refine cells_ext (forall_cell_of_columns fun c hc => ?_)
  obtain ⟨b0, b1, b2, b3⟩ := cellAt_invMixColumns s hc
  obtain ⟨a0, a1, a2, a3⟩ := cellAt_mixColumns (invMixColumns s) hc
  rw [a0, a1, a2, a3, b0, b1, b2, b3]
  grind

/-- The column XORed into each of its four cells XORs to the column again, which the second mix takes off
(40_engines.md R136). -/
theorem mixColumnsM_mixColumnsM (s : Cells w) : mixColumnsM (mixColumnsM s) = s := by
  refine cells_ext fun n hn => ?_
  have hcolumn (k : Nat) : (n % 4 + 4 * k) % 4 = n % 4 := by omega
  simp (disch := omega) only [cellAt_mixColumnsM, Nat.mod_mod, hcolumn 1, hcolumn 2, hcolumn 3]
  grind

/-- The permutations are undone by their inverses (40_engines.md R142). -/
theorem invShiftRows_shiftRows (s : Cells w) : invShiftRows (shiftRows s) = s := rfl

theorem invPermuteCells_permuteCells (s : Cells w) : invPermuteCells (permuteCells s) = s := rfl

theorem invPermTK_permTK (s : Cells w) : invPermTK (permTK s) = s := rfl

/-- Settles O56: the laws of the tables and networks by evaluation over the cell domain, those of the arrays for every
cell width. -/
theorem engineFunctionsInvert : Obligations.EngineFunctionsInvert :=
  ⟨sbox4_inverses, sbox8_inverses, sboxM_sboxM, lfsrs_w4_inverses, lfsrs_w8_inverses, ⟨rfl, rfl, rfl, rfl⟩,
    fun _ s => ⟨invShiftRows_shiftRows s, invPermuteCells_permuteCells s, invMixColumns_mixColumns s,
      mixColumns_invMixColumns s, mixColumnsM_mixColumnsM s, tweakHInv_tweakH s, invPermTK_permTK s⟩,
    ⟨rfl, rfl⟩, sbox4_eq_network, sbox8_eq_network⟩

end Sys2Proof.Machine
end

section
/-! PROOF. The tweakey schedule: the round constants and their period, the tweakey words step by step, the round keys they
give, and what a new TK1 changes in them (41_key_setup.md R171-R178). -/

namespace Sys2Proof.Machine

variable {w : Nat}

/-! ### Round constants (41_key_setup.md R171, R172) -/

/-- The constants are the states of one register, so once a state returns all that follow it return. -/
theorem roundConstant_add_period (r : Nat) : roundConstant (r + 63) = roundConstant r := by
  induction r with
  | zero => decide +kernel
  | succ r ih => exact congrArg rcNext ih

/-- No constant before the period ends is the first one. -/
theorem roundConstant_ne_zeroth : ∀ p < 63, 0 < p → roundConstant p ≠ roundConstant 0 := by decide +kernel

/-- Settles O40: the table and the 62 constants before the period ends by evaluation, the period by induction. -/
theorem roundConstantsTable : Obligations.RoundConstantsTable :=
  ⟨by decide, roundConstant_add_period, fun p hpos hlt => roundConstant_ne_zeroth p hlt hpos⟩

/-! ### Tweakey words (41_key_setup.md R175) -/

theorem cellAt_permTK (t : Cells w) {i : Nat} (hi : i < 16) : cellAt (permTK t) i = cellAt t (pT.getD i 0) :=
  cellAt_permute pT t i hi

theorem cellAt_lowRows (f : BitVec w → BitVec w) (t : Cells w) {i : Nat} (hi : i < 16) :
    cellAt (lowRows f t) i = if i < 8 then f (cellAt t i) else cellAt t i := cellAt_cellsOf _ i hi

/-- A word that is active for `k ≤ z` steps by P_T and an LFSR on its low rows, and stays as it is for fewer words. -/
theorem cellAt_steppedWord (f : BitVec w → BitVec w) (t : Cells w) (k z : Nat) {i : Nat} (hi : i < 16) :
    cellAt (if k ≤ z then lowRows f (permTK t) else t) i =
      if z < k then cellAt t i
      else if i < 8 then f (cellAt t (pT.getD i 0)) else cellAt t (pT.getD i 0) := by
  by_cases hk : k ≤ z
  · rw [if_pos hk, if_neg (by omega), cellAt_lowRows f _ hi, cellAt_permTK t hi]
  · rw [if_neg hk, if_pos (by omega)]

/-! ### Round keys (41_key_setup.md R176, R177) -/

/-- What a round adds to cell `i` of its key: the round constant in cells 0 and 4, and the domain bit 0x2 in cell 2 of a
tweaked slot. -/
def roundAddend (w : Nat) (tweaked : Bool) (r i : Nat) : BitVec w :=
  if i = 0 then BitVec.ofNat w ((roundConstant r).toNat % 16)
  else if i = 2 then (if tweaked then BitVec.ofNat w 2 else 0)
  else if i = 4 then BitVec.ofNat w ((roundConstant r).toNat / 16) else 0

/-- Cell `i` of a round key is the XOR of that cell of the active words and the round's own addend. -/
theorem roundKeyCell_roundKey (e : Engine w) (z : Nat) (tweaked : Bool) (tk : Tweakeys w) (r : Nat) {i : Nat} (hi : i < 8) :
    roundKeyCell (roundKey e z tweaked tk r) i = tkSum z (tkAfter e z tk r) i ^^^ roundAddend w tweaked r i := by
  have hnone (x : BitVec w) : x = x ^^^ 0#w := BitVec.xor_zero.symm
  interval_cases i
  exacts [rfl, hnone _, rfl, hnone _, rfl, hnone _, hnone _, hnone _]

theorem tkSum_of_pos {z : Nat} (hz : 1 ≤ z) (t : Tweakeys w) (i : Nat) :
    tkSum z t i = cellAt t.t0 i ^^^ (if 2 ≤ z then cellAt t.t1 i else 0) ^^^ (if 3 ≤ z then cellAt t.t2 i else 0) := by
  rw [tkSum, if_pos hz]

theorem roundKeysOfWords : RoundKeysOfWords := by
  intro w e z tweaked tk h1 h3
  refine ⟨rfl, fun r => ⟨fun i hi => ⟨?_, ?_, ?_⟩, fun i hi => ?_⟩⟩
  · rw [tkAfter, tkStep, if_pos h1]
    exact cellAt_permTK _ hi
  · exact cellAt_steppedWord e.lfsr2 _ 2 z hi
  · exact cellAt_steppedWord e.lfsr3 _ 3 z hi
  · rw [← tkSum_of_pos h1]
    exact (if_pos hi).symm.trans (roundKeyCell_roundKey e z tweaked tk r hi)

/-- A cell of a word resized keeps its value modulo the cell width (log 7). -/
theorem toNat_cellAt_resizeCells {v : Nat} (w : Nat) (t : Cells v) {i : Nat} (hi : i < 16) :
    (cellAt (resizeCells w t) i).toNat = (cellAt t i).toNat % 2 ^ w := by
  rw [resizeCells, cellAt_mapCells _ _ _ hi, BitVec.toNat_setWidth]

/-- Settles O41: the schedule step by step, and the slot's words are its cells resized. -/
theorem roundKeysFromTweakeyWords : Obligations.RoundKeysFromTweakeyWords :=
  ⟨roundKeysOfWords, fun w _ slot => ⟨slotWords w slot, fun _ hi => ⟨toNat_cellAt_resizeCells w slot.tk.t0 hi,
    toNat_cellAt_resizeCells w slot.tk.t1 hi, toNat_cellAt_resizeCells w slot.tk.t2 hi⟩, fun _ => rfl⟩⟩

/-! ### A new TK1 (41_key_setup.md R178) -/

/-- TK1 only ever goes through P_T. -/
theorem tkAfter_t0 (e : Engine w) {z : Nat} (hz : 1 ≤ z) (tk : Tweakeys w) (r : Nat) :
    (tkAfter e z tk r).t0 = permTK^[r] tk.t0 := by
  induction r with
  | zero => rfl
  | succ r ih => rw [Function.iterate_succ_apply', ← ih, tkAfter, tkStep, if_pos hz]

/-- The words step independently: a new TK1 leaves the others as they are in every round. -/
theorem tkAfter_replace_t0 (e : Engine w) {z : Nat} (hz : 1 ≤ z) (tk : Tweakeys w) (new : Cells w) (r : Nat) :
    tkAfter e z { tk with t0 := new } r = { tkAfter e z tk r with t0 := permTK^[r] new } := by
  induction r with
  | zero => rfl
  | succ r ih => rw [Function.iterate_succ_apply', tkAfter, ih, tkStep, if_pos hz]; rfl

/-- A new first word changes each cell of the sum by the XOR of the old and the new cell. -/
theorem tkSum_replace_t0 {z : Nat} (hz : 1 ≤ z) (t : Tweakeys w) (new : Cells w) (i : Nat) :
    tkSum z { t with t0 := new } i = tkSum z t i ^^^ (cellAt t.t0 i ^^^ cellAt new i) := by
  have hcancel : cellAt new i = cellAt t.t0 i ^^^ (cellAt t.t0 i ^^^ cellAt new i) := by
    rw [← BitVec.xor_assoc, BitVec.xor_self, BitVec.zero_xor]
  rw [tkSum_of_pos hz, tkSum_of_pos hz]
  dsimp only
  conv_lhs => rw [hcancel]
  ac_rfl

/-- Settles O42: the round key is linear in the words, and TK1 steps apart from the others. -/
theorem retweakChangesRoundKeyByXor : Obligations.RetweakChangesRoundKeyByXor := by
  intro w e z tweaked tk new r hz
  have hsum (i : Nat) : tkSum z (tkAfter e z { tk with t0 := new } r) i =
      tkSum z (tkAfter e z tk r) i ^^^ (cellAt (permTK^[r] tk.t0) i ^^^ cellAt (permTK^[r] new) i) := by
    rw [tkAfter_replace_t0 e hz, tkSum_replace_t0 hz, tkAfter_t0 e hz]
  simp only [roundKey, hsum, HalfCells.mk.injEq, and_true, true_and]
  exact ⟨by ac_rfl, by ac_rfl, by ac_rfl⟩

end Sys2Proof.Machine
end

section
/-! PROOF. The key commands that do not load a slot: those that fail, SWAP_MODES and CLEAR_KEY (41_key_setup.md R180,
R185-R190, 60_exceptions.md R302). -/

namespace Sys2Proof.Machine

/-! ### Bad operands (41_key_setup.md R185-R187) -/

/-- A length that is no legal number of whole words counts as none. -/
theorem wordCount_eq_zero {c : Cipher} {most : Nat} {len : BitVec 9}
    (h : ∀ n, 1 ≤ n → n ≤ most → len.toNat ≠ n * blockSize c) : wordCount c most len = 0 := by
  unfold wordCount
  dsimp only
  split
  · rename_i hwords
    obtain ⟨hlen, hmost⟩ := hwords
    by_contra hpos
    exact h _ (Nat.pos_of_ne_zero hpos) hmost hlen
  · rfl

theorem badKeyOperand_of_bad_skinny {c : Cipher} (hc : c ≠ .mantis) {nullp : Bool} {len : BitVec 9} (rounds : BitVec 4)
    (h : nullp = true ∨
      (len.toNat ≠ blockSize c ∧ len.toNat ≠ 2 * blockSize c ∧ len.toNat ≠ 3 * blockSize c)) :
    badKeyOperand c nullp len rounds = true := by
  rw [badKeyOperand_skinny hc]
  obtain rfl | ⟨h1, h2, h3⟩ := h
  · rfl
  · rw [wordCount_eq_zero fun n hn hmost => by interval_cases n <;> omega]
    exact Bool.or_true nullp

theorem badKeyOperand_of_bad_mantis {nullp : Bool} {len : BitVec 9} {r : BitVec 4}
    (h : nullp = true ∨ len.toNat ≠ 16 ∨ r.toNat < 5 ∨ 8 < r.toNat) : badKeyOperand .mantis nullp len r = true := by
  rw [badKeyOperand, Bool.or_eq_true, Bool.not_eq_true']
  refine h.imp_right fun hkey => ?_
  simp only [mantisKeyOk, Bool.and_eq_false_iff, beq_eq_false_iff_ne, decide_eq_false_iff_not]
  omega

theorem badTweakedKeyOperand_of_bad {c : Cipher} {nullp : Bool} {len : BitVec 9}
    (h : nullp = true ∨ (len.toNat ≠ blockSize c ∧ len.toNat ≠ 2 * blockSize c)) :
    badTweakedKeyOperand c nullp len = true := by
  rw [badTweakedKeyOperand_eq]
  obtain rfl | ⟨h1, h2⟩ := h
  · rfl
  · rw [wordCount_eq_zero fun n hn hmost => by interval_cases n <;> omega]
    exact Bool.or_true nullp

/-- A legal command whose one check fails publishes PARAM. -/
theorem command_of_bad_operand {i : Instr} {bad : Bool} {u s : State} (hi : i.wellFormed = true) (hbad : bad = true) :
    command i [(bad, .param)] u s = .next (failed s 6) :=
  hbad ▸ command_of_failed (e := .param) hi rfl

/-- Every command answers an ill-formed term with ILLEGAL, before its own checks (60_exceptions.md R303). -/
theorem exec_of_illegal {i : Instr} (hi : i.wellFormed = false) (s : State) : exec i s = .next (failed s 1) := by
  obtain ⟨checks, updated, hexec, -⟩ := exec_eq_command i s
  exact hexec.trans (command_of_illegal hi)

/-- Settles O28: each bad operand fails the command's one check, and an ill-formed term the check before it. -/
theorem keyCommandsRejectBadOperands : Obligations.KeyCommandsRejectBadOperands := by
  refine fun s => ⟨fun c nullp len hc h => ?_, fun nullp len r m h => ?_, fun c nullp len hc h => ?_,
    fun i hi => exec_of_illegal hi s⟩
  · exact command_of_bad_operand (by simp [Instr.wellFormed]) (badKeyOperand_of_bad_skinny hc 0 h)
  · exact command_of_bad_operand rfl (badKeyOperand_of_bad_mantis h)
  · exact command_of_bad_operand (isSkinny_of_ne_mantis hc) (badTweakedKeyOperand_of_bad h)

/-! ### SWAP_MODES and CLEAR_KEY (41_key_setup.md R180, R189, R190) -/

theorem swapSlot_swapSlot (slot : KeySlot) : swapSlot (swapSlot slot) = slot := by
  simp only [swapSlot, Bool.not_not, BitVec.xor_assoc, BitVec.xor_self, BitVec.xor_zero]

/-- SWAP_MODES with a Mantis key loaded swaps the slot. -/
theorem exec_swapModes_of_keyed {s : State} (hv : s.bk.valid = true) (hc : s.bk.cipher = .mantis) :
    exec (.swapModes .mantis) s = .next (succeeded { s with bk := swapSlot s.bk }) :=
  command_of_passed rfl (blockKeyChecks_passed.mpr ⟨hv, hc⟩)

/-- Settles O26: the swapped slot is still a Mantis key, so a second swap succeeds and restores it. -/
theorem swapModesSwapsOrientation : Obligations.SwapModesSwapsOrientation := by
  intro s hv hc
  have hfirst := exec_swapModes_of_keyed hv hc
  refine ⟨hfirst, fun t ht => ?_⟩
  obtain rfl : succeeded { s with bk := swapSlot s.bk } = t := Host.Outcome.next.inj (hfirst.symm.trans ht)
  exact ⟨_, exec_swapModes_of_keyed hv hc, swapSlot_swapSlot s.bk⟩

/-- CLEAR_KEY is legal for every cipher and has no checks of its own. -/
theorem exec_clearKey (c : Cipher) (s : State) : exec (.clearKey c) s = .next (succeeded { s with bk := zeroSlot }) :=
  command_of_passed (i := .clearKey c) (s := s) rfl (List.forall_mem_nil _)

/-- Settles O27: the zero slot written out. -/
theorem clearKeyZeroesSlot : Obligations.ClearKeyZeroesSlot := fun s c => exec_clearKey c s

end Sys2Proof.Machine
end

section
/-! PROOF. Decryption undoes encryption: serialized blocks, the Skinny rounds and the Mantis reflector, and the block
commands on the machine (20_memory.md R68, 42_block_crypt.md R221-R230, R235, R236). -/

namespace Sys2Proof.Machine

variable {w : Nat}

/-! ### Blocks and their cells (20_memory.md R68) -/

theorem cells4_bytes4 (s : Cells 4) : cells4 (bytes4 s) = s :=
  cells_ext fun i hi => BitVec.eq_of_toNat_eq <|
    (toNat_cellAt_cells4 _ (c := .s64) (by decide) hi).trans (serialCell_bytes4 s (by decide) hi)

theorem cells8_bytes8 (s : Cells 8) : cells8 (bytes8 s) = s := rfl

/-- A byte is its high nibble above its low one. -/
theorem highNibble_append_lowNibble (x : Byte) : x.extractLsb' 4 4 ++ x.extractLsb' 0 4 = x :=
  (BitVec.extractLsb'_append_extractLsb'_eq_extractLsb' (start₂ := 4) (len₁ := 4) rfl).trans BitVec.extractLsb'_eq_self

/-- Two strings of one length with the same bytes are the same. -/
theorem bytes_ext {b b' : List Byte} (hlen : b.length = b'.length) (h : ∀ k < b.length, b.getD k 0 = b'.getD k 0) :
    b = b' :=
  List.ext_getElem hlen fun k hk hk' => by
    rw [← List.getD_eq_getElem _ 0 hk, ← List.getD_eq_getElem _ 0 hk', h k hk]

theorem bytes4_cells4 {b : List Byte} (hb : b.length = 8) : bytes4 (cells4 b) = b := by
  refine bytes_ext (by rw [length_bytes4, hb]) fun k hk => ?_
  rw [length_bytes4] at hk
  have hbyte : (bytes4 (cells4 b)).getD k 0 = cellAt (cells4 b) (2 * k) ++ cellAt (cells4 b) (2 * k + 1) := by
    interval_cases k <;> rfl
  rw [hbyte, cells4, cellAt_cellsOf _ _ (by omega), cellAt_cellsOf _ _ (by omega), if_pos (by omega),
    if_neg (by omega), show 2 * k / 2 = k by omega, show (2 * k + 1) / 2 = k by omega, highNibble_append_lowNibble]

theorem bytes8_cells8 {b : List Byte} (hb : b.length = 16) : bytes8 (cells8 b) = b :=
  bytes_ext (by rw [length_bytes8, hb]) fun _ hk => cellAt_cellsOf _ _ hk

/-! ### Skinny (42_block_crypt.md R221-R224) -/

theorem subCells_subCells {f g : BitVec w → BitVec w} (h : ∀ x, f (g x) = x) (s : Cells w) :
    subCells f (subCells g s) = s :=
  cells_ext fun i hi => by rw [cellAt_subCells _ _ hi, cellAt_subCells _ _ hi, h]

theorem addRoundKey_addRoundKey (s : Cells w) (rk : HalfCells w) : addRoundKey (addRoundKey s rk) rk = s :=
  cells_ext fun i hi => by
    rw [cellAt_addRoundKey _ _ hi, cellAt_addRoundKey _ _ hi, BitVec.xor_assoc, BitVec.xor_self, BitVec.xor_zero]

theorem skinnyInvRound_skinnyRound {e : Engine w} (he : ∀ x, e.sboxInv (e.sbox x) = x) (s : Cells w)
    (rk : HalfCells w) : skinnyInvRound e (skinnyRound e s rk) rk = s := by
  rw [skinnyInvRound, skinnyRound, invMixColumns_mixColumns, invShiftRows_shiftRows, addRoundKey_addRoundKey,
    subCells_subCells he]

theorem skinnyInvRounds_skinnyRounds {e : Engine w} (he : ∀ x, e.sboxInv (e.sbox x) = x) (rk : Nat → HalfCells w)
    (n : Nat) (s : Cells w) : skinnyInvRounds e rk n (skinnyRounds e rk n s) = s := by
  induction n with
  | zero => rfl
  | succ n ih => rw [skinnyInvRounds, skinnyRounds, skinnyInvRound_skinnyRound he, ih]

theorem skinnyDecrypt_skinnyEncrypt {slot : KeySlot} {b : List Byte} (hb : b.length = blockSize slot.cipher) :
    skinnyDecrypt slot (skinnyEncrypt slot b) = b := by
  cases hc : slot.cipher with
  | s128 =>
    rw [hc] at hb
    simp only [skinnyDecrypt, skinnyEncrypt, hc, cells8_bytes8]
    rw [skinnyInvRounds_skinnyRounds fun x => (sbox8_inverses x).1, bytes8_cells8 hb]
  | s64 | mantis =>
    rw [hc] at hb
    simp only [skinnyDecrypt, skinnyEncrypt, hc, cells4_bytes4]
    rw [skinnyInvRounds_skinnyRounds fun x => (sbox4_inverses x).1, bytes4_cells4 hb]

/-! ### Mantis (42_block_crypt.md R226-R230) -/

theorem permuteCells_invPermuteCells (s : Cells w) : permuteCells (invPermuteCells s) = s := rfl

theorem tweakH_tweakHInv (t : Cells w) : tweakH (tweakHInv t) = t := rfl

theorem mantisMiddle_mantisMiddle (s : Cells 4) : mantisMiddle (mantisMiddle s) = s := by
  rw [mantisMiddle, mantisMiddle, subCells_subCells sboxM_sboxM, mixColumnsM_mixColumnsM,
    subCells_subCells sboxM_sboxM]

theorem mantisInvRound_mantisRound (k : BitVec 64) (i : Nat) (m : MantisState) :
    mantisInvRound k i (mantisRound k i m) = m := by
  simp only [mantisInvRound, mantisRound, mixColumnsM_mixColumnsM, invPermuteCells_permuteCells, xorCells_self_right,
    subCells_subCells sboxM_sboxM, tweakHInv_tweakH]

theorem mantisRound_mantisInvRound (k : BitVec 64) (i : Nat) (m : MantisState) :
    mantisRound k i (mantisInvRound k i m) = m := by
  simp only [mantisInvRound, mantisRound, mixColumnsM_mixColumnsM, permuteCells_invPermuteCells, xorCells_self_right,
    subCells_subCells sboxM_sboxM, tweakH_tweakHInv]

theorem mantisReverse_mantisForward (k : BitVec 64) (n : Nat) (m : MantisState) :
    mantisReverse k n (mantisForward k n m) = m := by
  induction n with
  | zero => rfl
  | succ n ih => rw [mantisReverse, mantisForward, mantisInvRound_mantisRound, ih]

theorem mantisForward_mantisReverse (k : BitVec 64) (n : Nat) (m : MantisState) :
    mantisForward k n (mantisReverse k n m) = m := by
  induction n generalizing m with
  | zero => rfl
  | succ n ih => rw [mantisForward, mantisReverse, ih, mantisRound_mantisInvRound]

/-- The Mantis core between its whitenings: forward rounds, middle, reverse rounds (42_block_crypt.md R229). -/
def mantisCore (k k' : BitVec 64) (n : Nat) (m : MantisState) : MantisState :=
  mantisReverse k' n { mantisForward k n m with s := mantisMiddle (mantisForward k n m).s }

/-- MantisCrypt is its core between two whitenings. -/
theorem mantisCrypt_eq_core (slot : KeySlot) (b : List Byte) (x : BitVec 64) :
    mantisCrypt slot b x = bytes4 (mantisWhiten slot.k0p (slot.k1 ^^^ mantisAlpha)
      (mantisCore slot.k1 (slot.k1 ^^^ mantisAlpha) slot.rounds
        (mantisWhiten slot.k0 slot.k1 ⟨cells4 b, nibbles x⟩))).s := rfl

/-- The core is a reflection: with its two key words exchanged it undoes itself. -/
theorem mantisCore_mantisCore (k k' : BitVec 64) (n : Nat) (m : MantisState) :
    mantisCore k' k n (mantisCore k k' n m) = m := by
  rw [mantisCore, mantisCore, mantisForward_mantisReverse, mantisMiddle_mantisMiddle, mantisReverse_mantisForward]

theorem mantisCore_t (k k' : BitVec 64) (n : Nat) (m : MantisState) : (mantisCore k k' n m).t = m.t :=
  mantis_tweak_restored k k' n m _

theorem mantisWhiten_mantisWhiten (a b : BitVec 64) (m : MantisState) : mantisWhiten a b (mantisWhiten a b m) = m :=
  congrArg (MantisState.mk · m.t) (xorCells_self_right m.s _)

/-- The swapped slot whitens as the slot did last, runs the core with its key words exchanged, and whitens as the slot did
first. -/
theorem mantisCrypt_swapSlot (slot : KeySlot) (b : List Byte) (x : BitVec 64) :
    mantisCrypt (swapSlot slot) b x = bytes4 (mantisWhiten slot.k0 slot.k1
      (mantisCore (slot.k1 ^^^ mantisAlpha) slot.k1 slot.rounds
        (mantisWhiten slot.k0p (slot.k1 ^^^ mantisAlpha) ⟨cells4 b, nibbles x⟩))).s := by
  have hk1 : slot.k1 ^^^ mantisAlpha ^^^ mantisAlpha = slot.k1 := by
    rw [BitVec.xor_assoc, BitVec.xor_self, BitVec.xor_zero]
  rw [mantisCrypt_eq_core]
  simp only [swapSlot, hk1]

/-- Settles O36: each whitening and the core in turn are undone, and the tweak is back where it began. -/
theorem mantisSwapInvertsCrypt : Obligations.MantisSwapInvertsCrypt := by
  intro slot b x hb
  have hstate (m : MantisState) (ht : m.t = nibbles x) : (⟨m.s, nibbles x⟩ : MantisState) = m := ht ▸ rfl
  rw [mantisCrypt_swapSlot, mantisCrypt_eq_core, cells4_bytes4, hstate, mantisWhiten_mantisWhiten,
    mantisCore_mantisCore, mantisWhiten_mantisWhiten, bytes4_cells4 hb]
  exact mantisCore_t _ _ _ _

/-! ### The block commands (42_block_crypt.md R235, R236) -/

theorem blockEncrypt_skinny {slot : KeySlot} (hc : slot.cipher ≠ .mantis) (b : List Byte) :
    blockEncrypt slot b = skinnyEncrypt slot b := by
  unfold blockEncrypt
  split
  · contradiction
  · rfl
  · rfl

theorem blockEncrypt_mantis {slot : KeySlot} (hc : slot.cipher = .mantis) (b : List Byte) :
    blockEncrypt slot b = mantisCrypt slot b slot.tweak := by
  rw [blockEncrypt, hc]

/-- Swapping keeps the stored tweak, so the swapped slot's block function undoes the slot's. -/
theorem blockEncrypt_swapSlot_blockEncrypt {slot : KeySlot} (hc : slot.cipher = .mantis) {b : List Byte}
    (hb : b.length = 8) : blockEncrypt (swapSlot slot) (blockEncrypt slot b) = b := by
  rw [blockEncrypt_mantis (slot := swapSlot slot) hc, blockEncrypt_mantis hc]
  exact mantisSwapInvertsCrypt slot b slot.tweak hb

/-- ENCRYPT_BLOCK under a loaded key of its cipher puts out the block function's result. -/
theorem exec_encryptBlock_of_keyed {s : State} {c : Cipher} (hv : s.bk.valid = true) (hc : s.bk.cipher = c) :
    exec (.encryptBlock c) s = .next (succeeded (s.putBlockOut (blockEncrypt s.bk (s.blockOperand c)))) :=
  command_of_passed rfl (blockKeyChecks_passed.mpr ⟨hv, hc⟩)

/-- DECRYPT_BLOCK under a loaded Skinny key of its cipher puts out the inverse block function's result. -/
theorem exec_decryptBlock_of_keyed {s : State} {c : Cipher} (hv : s.bk.valid = true) (hc : s.bk.cipher = c)
    (hskinny : c ≠ .mantis) :
    exec (.decryptBlock c) s = .next (succeeded (s.putBlockOut (skinnyDecrypt s.bk (s.blockOperand c)))) :=
  command_of_passed (isSkinny_of_ne_mantis hskinny) (blockKeyChecks_passed.mpr ⟨hv, hc⟩)

theorem length_blockOperand {s : State} (hsized : s.latch.Sized) (c : Cipher) :
    (s.blockOperand c).length = blockSize c := by
  rw [State.blockOperand, List.length_take, hsized.blockIn]
  exact Nat.min_eq_left (blockSize_le c)

/-- What was put out is read back from BLOCK_OUT. -/
theorem readBytes_putBlockOut (s : State) {y : List Byte} {n : Nat} (hy : y.length = n) (hn : n ≤ 16) :
    (s.putBlockOut y).mem.readBytes 0x0B0 n = y := by
  refine bytes_ext (by rw [length_readBytes, hy]) fun k hk => ?_
  rw [length_readBytes] at hk
  rw [getD_readBytes _ _ _ _ hk, read_putBlockOut s y (hy.trans_le hn) k (hk.trans_le hn)]

/-- Settles O37: the second command's operand is the first one's result, which its block function inverts. -/
theorem decryptBlockUndoesEncryptBlock : Obligations.DecryptBlockUndoesEncryptBlock := by
  rintro s t u c hsized hv rfl hexec hin
  have hlen := length_blockOperand hsized s.bk.cipher
  have ht : t = succeeded (s.putBlockOut (blockEncrypt s.bk (s.blockOperand s.bk.cipher))) :=
    Host.Outcome.next.inj (hexec.symm.trans (exec_encryptBlock_of_keyed hv rfl))
  have htbk : t.bk = s.bk := ht ▸ rfl
  have hoperand : u.blockOperand s.bk.cipher = blockEncrypt s.bk (s.blockOperand s.bk.cipher) := by
    rw [ht] at hin
    exact hin.trans (readBytes_putBlockOut s (length_blockEncrypt s.bk _) (blockSize_le _))
  refine ⟨fun hskinny hbk => ?_, fun hmantis w hswap hbk => ?_⟩
  · rw [htbk] at hbk
    refine ⟨_, exec_decryptBlock_of_keyed (hbk ▸ hv) (hbk ▸ rfl) hskinny, ?_⟩
    rw [hoperand, hbk, blockEncrypt_skinny hskinny, skinnyDecrypt_skinnyEncrypt hlen]
    exact readBytes_putBlockOut u hlen (blockSize_le _)
  · have hw : succeeded { t with bk := swapSlot t.bk } = w :=
      Host.Outcome.next.inj ((exec_swapModes_of_keyed (htbk ▸ hv) (htbk ▸ hmantis)).symm.trans hswap)
    have hbk : u.bk = swapSlot s.bk := by rw [hbk, ← hw, ← htbk]; rfl
    rw [hmantis] at hlen hoperand
    refine ⟨_, exec_encryptBlock_of_keyed (hbk ▸ hv) (hbk ▸ hmantis), ?_⟩
    rw [hoperand, hbk, blockEncrypt_swapSlot_blockEncrypt hmantis hlen]
    exact readBytes_putBlockOut u hlen (by decide)

end Sys2Proof.Machine
end

section
/-! PROOF. What ENCRYPT_BLOCK and DECRYPT_BLOCK publish, and that SkinnyDecrypt undoes SkinnyEncrypt
(42_block_crypt.md R220, R224, R230, R231, R235, R236). -/

namespace Sys2Proof.Machine

/-- Settles O32: the command puts out the block function's result, which is the one its cipher names. -/
theorem encryptBlockPublishesCiphertext : Obligations.EncryptBlockPublishesCiphertext := by
  rintro s c hv rfl
  refine ⟨_, exec_encryptBlock_of_keyed hv rfl, fun hskinny => ?_, fun hmantis => ?_⟩
  · rw [blockEncrypt_skinny hskinny]
    exact blockPublished_putBlockOut s ((length_skinnyEncrypt s.bk _).trans_le (blockSize_le _))
  · rw [blockEncrypt_mantis hmantis, hmantis]
    exact blockPublished_putBlockOut s (by simp)

/-- Settles O33: the command puts out the inverse block function's result, which fits BLOCK_OUT. -/
theorem decryptBlockPublishesPlaintext : Obligations.DecryptBlockPublishesPlaintext := by
  rintro s c hv rfl hskinny
  have hfits : (skinnyDecrypt s.bk (s.blockOperand s.bk.cipher)).length ≤ 16 :=
    (length_skinnyDecrypt s.bk _).trans_le (blockSize_le _)
  exact ⟨_, exec_decryptBlock_of_keyed hv rfl hskinny, blockPublished_putBlockOut s hfits⟩

/-- Settles O35: every inverse round undoes its round, under the S-box pair of the slot's cell width. -/
theorem skinnyDecryptInvertsEncrypt : Obligations.SkinnyDecryptInvertsEncrypt :=
  fun _ _ hb => skinnyDecrypt_skinnyEncrypt hb

end Sys2Proof.Machine
end

section
/-! PROOF. The CTR commands but CTR_ENCRYPT: their errors in a context of their cipher, and what each does to the context
(43_ctr.md R262, R263, R265-R268, R272, 60_exceptions.md R303, R305). -/

namespace Sys2Proof.Machine

/-! ### Errors in a context of the command's cipher (43_ctr.md R266-R271) -/

/-- Checks that pass leave the verdict to those after them (60_exceptions.md R303). -/
theorem firstError_append_of_passed {l l' : List (Bool × CmdError)} (h : ∀ p ∈ l, p.1 = false) :
    firstError (l ++ l') = firstError l' := by
  induction l with
  | nil => rfl
  | cons p l ih =>
    obtain ⟨b, e⟩ := p
    obtain ⟨rfl, hl⟩ := List.forall_mem_cons.mp h
    exact ih hl

/-- In a context of its cipher a legal CTR command publishes the error of its first own check that fails. -/
theorem command_of_failed_in_context {i : Instr} {c : Cipher} {checks : List (Bool × CmdError)} {u s : State}
    {e : CmdError} (hwf : i.wellFormed = true) (hinit : s.cx.init = true) (hc : s.cx.cipher = c)
    (hfails : firstError checks = some e) :
    command i (contextChecks s c ++ checks) u s = .next (failed s (errorCode (some e))) :=
  command_of_failed hwf ((firstError_append_of_passed (contextChecks_passed.mpr ⟨hinit, hc⟩)).trans hfails)

theorem badBlockOperand_of_bad {c : Cipher} {nullp : Bool} {len : BitVec 9}
    (h : (nullp = true ∧ len ≠ 0) ∨ blockSize c < len.toNat) : badBlockOperand c nullp len = true := by
  simpa [badBlockOperand] using h

theorem badStreamOperand_of_bad {nullp : Bool} {len : BitVec 9} (h : nullp = true ∨ 256 < len.toNat) :
    (nullp || decide (streamBytes < len.toNat)) = true := by
  rwa [Bool.or_eq_true, decide_eq_true_eq]

/-- Settles O31: the context's checks pass, and each clause makes one own check the first that fails. -/
theorem contextCommandErrorsInOrder : Obligations.ContextCommandErrorsInOrder := by
  intro s c hinit hcipher
  refine ⟨fun nullp len hc hbad => ?_, fun nullp len r hc hbad => ?_, fun nullp len hc hbad => ?_,
    fun nullp len hbad => ?_, fun nullp len hv => ⟨?_, ?_⟩, fun nullp len hv ht => ?_,
    fun nullp len hv ht hbad => ?_, fun nullp len hv hbad => ?_⟩
  · exact command_of_failed_in_context (e := .param) (by simp [Instr.wellFormed]) hinit hcipher
      (by rw [badKeyOperand_of_bad_skinny hc 0 hbad]; rfl)
  · subst hc
    exact command_of_failed_in_context (e := .param) rfl hinit hcipher (by rw [badKeyOperand_of_bad_mantis hbad]; rfl)
  · exact command_of_failed_in_context (e := .param) (isSkinny_of_ne_mantis hc) hinit hcipher
      (by rw [badTweakedKeyOperand_of_bad hbad]; rfl)
  · exact command_of_failed_in_context (e := .param) rfl hinit hcipher (by rw [badBlockOperand_of_bad hbad]; rfl)
  · exact command_of_failed_in_context (e := .nokey) rfl hinit hcipher (by rw [hv]; rfl)
  · exact command_of_failed_in_context (e := .nokey) rfl hinit hcipher (by rw [hv]; rfl)
  · exact command_of_failed_in_context (e := .notweak) rfl hinit hcipher (by rw [hv, ht]; rfl)
  · exact command_of_failed_in_context (e := .param) rfl hinit hcipher
      (by rw [hv, ht, badBlockOperand_of_bad hbad]; rfl)
  · exact command_of_failed_in_context (e := .param) rfl hinit hcipher
      (by rw [hv, badStreamOperand_of_bad hbad]; rfl)

/-! ### A new slot in the context (43_ctr.md R262, R266-R268) -/

/-- `s` after a CTR command put `slot` into the context and discarded the keystream. -/
def rekeyed (s : State) (c : Cipher) (slot : KeySlot) : State :=
  succeeded { s with cx := { s.cx with ks := slot, offset := s.cfg.lanes.count * blockSize c } }

/-- A legal CTR command whose checks pass in a context of its cipher, and whose update is a new slot. -/
theorem command_rekeyed {i : Instr} {c : Cipher} {checks : List (Bool × CmdError)} {slot : KeySlot} {s : State}
    (hwf : i.wellFormed = true) (hinit : s.cx.init = true) (hc : s.cx.cipher = c)
    (hok : ∀ p ∈ checks, p.1 = false) :
    command i (contextChecks s c ++ checks)
      { s with cx := exhausted s.cfg.lanes.count { s.cx with ks := slot } } s = .next (rekeyed s c slot) := by
  subst hc
  exact command_of_passed hwf (List.forall_mem_append.mpr ⟨contextChecks_passed.mpr ⟨hinit, rfl⟩, hok⟩)

theorem exec_ctrSetKey_of_good {s : State} {c : Cipher} {nullp : Bool} {len : BitVec 9} {rounds : BitVec 4}
    (hwf : (Instr.ctrSetKey c nullp len rounds).wellFormed = true) (hinit : s.cx.init = true)
    (hc : s.cx.cipher = c) (hgood : badKeyOperand c nullp len rounds = false) :
    exec (.ctrSetKey c nullp len rounds) s = .next (rekeyed s c (s.loadedSlot c len rounds false)) :=
  command_rekeyed hwf hinit hc (List.forall_mem_singleton.mpr hgood)

theorem exec_ctrSetTweakedKey_of_good {s : State} {c : Cipher} {nullp : Bool} {len : BitVec 9} (hskinny : c ≠ .mantis)
    (hinit : s.cx.init = true) (hc : s.cx.cipher = c) (hgood : badTweakedKeyOperand c nullp len = false) :
    exec (.ctrSetTweakedKey c nullp len) s = .next (rekeyed s c (s.loadedTweakedSlot c len)) :=
  command_rekeyed (isSkinny_of_ne_mantis hskinny) hinit hc (List.forall_mem_singleton.mpr hgood)

theorem exec_ctrSetTweak_of_good {s : State} {c : Cipher} {nullp : Bool} {len : BitVec 9} (hinit : s.cx.init = true)
    (hc : s.cx.cipher = c) (hv : s.cx.ks.valid = true) (ht : s.cx.ks.tweaked = true)
    (hgood : badBlockOperand c nullp len = false) :
    exec (.ctrSetTweak c nullp len) s
      = .next (rekeyed s c (retweakSlot s.cx.ks c (s.tweakOperand c nullp len))) :=
  command_rekeyed rfl hinit hc (by simp [hv, ht, hgood])

/-- Settles O44: the operand passes, and the slots are those that the block key commands load. -/
theorem ctrKeyCommandsLoadSlot : Obligations.CtrKeyCommandsLoadSlot := by
  intro s c hsized hinit hcipher
  refine ⟨fun z hc h1 h3 => ?_, fun r hc h5 h8 => ?_, fun m hc h1 h2 => ?_⟩
  · have hexec := exec_ctrSetKey_of_good (by simp [Instr.wellFormed]) hinit hcipher
      (badKeyOperand_wordsLength hc h1 h3 0)
    rw [loadedSlot_wordsLength hc s h3] at hexec
    exact ⟨_, loadedSkinny_loadSkinny hc h1 h3 s.latch.key, hexec⟩
  · subst hc
    exact ⟨_, loadedMantis_loadMantis (by rw [hsized.key]; decide) r.toNat false,
      exec_ctrSetKey_of_good rfl hinit hcipher (badKeyOperand_mantis h5 h8)⟩
  · have hexec := exec_ctrSetTweakedKey_of_good hc hinit hcipher (badTweakedKeyOperand_wordsLength c h1 h2)
    rw [loadedTweakedSlot_wordsLength s c h2] at hexec
    exact ⟨_, loadedTweaked_loadSkinnyTweaked hc h1 h2 s.latch.key, hexec⟩

/-- Settles O45: every check passes, and the operand's bytes become T of a Mantis slot or TK1 of a Skinny one. -/
theorem ctrSetTweakReplacesTweak : Obligations.CtrSetTweakReplacesTweak := by
  intro s c nullp len hsized hinit hcipher hv ht hnull hlen
  have htb := tweakBytes_tweakOperand hsized nullp hlen
  have hexec := exec_ctrSetTweak_of_good hinit hcipher hv ht (badBlockOperand_of_legal hnull hlen)
  refine ⟨_, htb, ?_, fun hskinny => ⟨_, wordOfBytes_slotCells c _, ?_⟩⟩
  · rintro rfl
    exact ⟨_, bigEndian64_be64 htb.1, hexec⟩
  · rw [hexec, retweakSlot_skinny hskinny]
    rfl

/-! ### Fresh and zero contexts (43_ctr.md R265, R272) -/

/-- Settles O43: CTR_INIT is legal for every cipher and has no checks of its own. -/
theorem ctrInitMakesFreshContext : Obligations.CtrInitMakesFreshContext := fun s c =>
  command_of_passed (i := .ctrInit c) (s := s) rfl (List.forall_mem_nil _)

/-- Settles O48: CTR_CLEANUP has no checks of its own, and puts in the zero context. -/
theorem ctrCleanupZeroesContext : Obligations.CtrCleanupZeroesContext := fun s c =>
  ⟨zeroContext s.cfg.lanes.count, command_of_passed (i := .ctrCleanup c) (s := s) rfl (List.forall_mem_nil _),
    rfl, rfl, rfl, rfl, rfl, fun _ hb => List.eq_of_mem_replicate hb⟩

end Sys2Proof.Machine
end

section
/-! PROOF. The stream of CTR_ENCRYPT: it splits and inverts, and from any point of a buffer it goes on with the keystream
of the context it began in (43_ctr.md R260, R261, R264, R270, R271). -/

namespace Sys2Proof.Machine

/-! ### Splitting and inverting (43_ctr.md R264) -/

theorem ctrStream_append (k : Nat) (xs ys : List Byte) (cx : CtrContext) :
    ctrStream k cx (xs ++ ys) =
      ((ctrStream k cx xs).1 ++ (ctrStream k (ctrStream k cx xs).2 ys).1,
        (ctrStream k (ctrStream k cx xs).2 ys).2) := by
  induction xs generalizing cx with
  | nil => rfl
  | cons x xs ih => simp only [List.cons_append, ctrStream, ih]

/-- The context moves on by the number of bytes alone, so both passes XOR with the same keystream. -/
theorem ctrStream_ctrStream (k : Nat) (xs : List Byte) (cx : CtrContext) :
    ctrStream k cx (ctrStream k cx xs).1 = (xs, (ctrStream k cx xs).2) := by
  induction xs generalizing cx with
  | nil => rfl
  | cons x xs ih => simp only [ctrStream, ih, BitVec.xor_assoc, BitVec.xor_self, BitVec.xor_zero]

/-- Settles O49: both laws by induction on the stream. -/
theorem ctrStreamSplitsAndInverts : Obligations.CtrStreamSplitsAndInverts := fun k cx xs ys =>
  ⟨ctrStream_append k xs ys cx, ctrStream_ctrStream k xs cx⟩

/-! ### A context some refills later (43_ctr.md R261, R270) -/

/-- `cx` after `r` refills on `k` lanes, with `o` bytes of its buffer used: the last refill put keystream blocks
`k * (r - 1)` to `k * r - 1` into the buffer. -/
def refilledBy (k : Nat) (cx : CtrContext) (r o : Nat) : CtrContext :=
  { cx with
    c := (cx.c + k * r) % counterModulus cx.cipher
    offset := o
    buf := if r = 0 then cx.buf
      else (List.range (bufferSize k cx.cipher)).map fun x =>
        keystreamByte cx (bufferSize k cx.cipher * (r - 1) + x) }

theorem refilledBy_zero (k : Nat) {cx : CtrContext} (h : cx.c < counterModulus cx.cipher) :
    refilledBy k cx 0 cx.offset = cx := by
  simp [refilledBy, Nat.mod_eq_of_lt h]

/-- Byte `i` of refill `r`, counting from 0, is byte `i` past the `r` whole buffers before it. -/
theorem keystreamByte_of_refill (k r : Nat) (cx : CtrContext) (i : Nat) :
    keystreamByte cx (bufferSize k cx.cipher * r + i)
      = (keystreamBlock cx (cx.c + k * r + i / blockSize cx.cipher)).getD (i % blockSize cx.cipher) 0 := by
  have hsplit : bufferSize k cx.cipher * r + i = blockSize cx.cipher * (k * r) + i := by
    rw [bufferSize]
    ring
  rw [keystreamByte_eq, hsplit, Nat.mul_add_div (blockSize_pos _), Nat.mul_add_mod, Nat.add_assoc]

theorem c_refilledBy_modEq (k : Nat) (cx : CtrContext) (r o : Nat) :
    (refilledBy k cx r o).c ≡ cx.c + k * r [MOD counterModulus cx.cipher] := Nat.mod_modEq _ _

theorem c_refill_refilledBy (k : Nat) (cx : CtrContext) (r o : Nat) :
    (refill k (refilledBy k cx r o)).c = (refilledBy k cx (r + 1) 0).c := by
  change _ = (cx.c + (k * r + k)) % counterModulus cx.cipher
  rw [← Nat.add_assoc]
  exact (c_refilledBy_modEq k cx r o).add_right k

theorem buf_refill_refilledBy (k : Nat) {cx : CtrContext} (hc : cx.ks.cipher = cx.cipher) (r o : Nat) :
    (refill k (refilledBy k cx r o)).buf = (refilledBy k cx (r + 1) 0).buf := by
  have hlen : (refill k (refilledBy k cx r o)).buf.length = bufferSize k cx.cipher := length_refill_buf k hc
  refine bytes_ext (by rw [hlen]; simp [refilledBy]) fun i hi => ?_
  rw [hlen] at hi
  calc (refill k (refilledBy k cx r o)).buf.getD i 0
      = (keystreamBlock (refilledBy k cx r o) ((refilledBy k cx r o).c + i / blockSize cx.cipher)).getD
          (i % blockSize cx.cipher) 0 :=
        getD_flatMap_range (fun j => length_keystreamBlock (cx := refilledBy k cx r o) hc _) 0 hi
    _ = (keystreamBlock cx (cx.c + k * r + i / blockSize cx.cipher)).getD (i % blockSize cx.cipher) 0 := by
        rw [keystreamBlock_congr (a := refilledBy k cx r o) (b := cx) rfl rfl
          ((c_refilledBy_modEq k cx r o).add_right _)]
    _ = keystreamByte cx (bufferSize k cx.cipher * r + i) := (keystreamByte_of_refill k r cx i).symm
    _ = (refilledBy k cx (r + 1) 0).buf.getD i 0 := by simp [refilledBy, List.getD_eq_getElem?_getD, hi]

/-- One more refill. -/
theorem refill_refilledBy (k : Nat) {cx : CtrContext} (hc : cx.ks.cipher = cx.cipher) (r o : Nat) :
    refill k (refilledBy k cx r o) = refilledBy k cx (r + 1) 0 :=
  calc refill k (refilledBy k cx r o)
      = { cx with
          c := (refill k (refilledBy k cx r o)).c, offset := 0
          buf := (refill k (refilledBy k cx r o)).buf } := rfl
    _ = refilledBy k cx (r + 1) 0 := by rw [buf_refill_refilledBy k hc, c_refill_refilledBy]; rfl

/-! ### The stream from any point of a buffer (43_ctr.md R271) -/

/-- Byte `n` of what the context gives out, counted from the start of its buffer: the buffer first, then the keystream
from its counter on. -/
def streamByte (k : Nat) (cx : CtrContext) (n : Nat) : Byte :=
  if n < bufferSize k cx.cipher then cx.buf.getD n 0 else keystreamByte cx (n - bufferSize k cx.cipher)

/-- The context with every byte before byte `n` used: a whole buffer is used up before the next refill. -/
def usedTo (k : Nat) (cx : CtrContext) (n : Nat) : CtrContext :=
  refilledBy k cx ((n - 1) / bufferSize k cx.cipher) (n - bufferSize k cx.cipher * ((n - 1) / bufferSize k cx.cipher))

theorem usedTo_offset {k : Nat} (hk : 0 < k) {cx : CtrContext} (ho : cx.offset ≤ bufferSize k cx.cipher)
    (h : cx.c < counterModulus cx.cipher) : usedTo k cx cx.offset = cx := by
  have hsize := bufferSize_pos hk cx.cipher
  have hnone : (cx.offset - 1) / bufferSize k cx.cipher = 0 := Nat.div_eq_of_lt (by omega)
  rw [usedTo, hnone, Nat.mul_zero, Nat.sub_zero, refilledBy_zero k h]

theorem usedTo_zero (k : Nat) (cx : CtrContext) : usedTo k cx 0 = refilledBy k cx 0 0 := by
  rw [usedTo, Nat.zero_sub, Nat.zero_sub, Nat.zero_div]

/-- Byte `j` of the buffer after refill `r` just used. -/
theorem usedTo_succ {k : Nat} {cx : CtrContext} (r : Nat) {j : Nat} (hj : j < bufferSize k cx.cipher) :
    usedTo k cx (bufferSize k cx.cipher * r + j + 1) = refilledBy k cx r (j + 1) := by
  have hr : (bufferSize k cx.cipher * r + j) / bufferSize k cx.cipher = r := by
    rw [Nat.mul_add_div (by omega), Nat.div_eq_of_lt hj, Nat.add_zero]
  rw [usedTo, Nat.add_sub_cancel, hr, Nat.add_assoc, Nat.add_sub_cancel_left]

theorem readied_refilledBy_of_lt {k : Nat} {cx : CtrContext} (r : Nat) {j : Nat} (hj : j < bufferSize k cx.cipher) :
    readied k (refilledBy k cx r j) = refilledBy k cx r j :=
  if_neg (Nat.not_le.mpr hj)

theorem readied_refilledBy_full {k : Nat} {cx : CtrContext} (hc : cx.ks.cipher = cx.cipher) (r : Nat) :
    readied k (refilledBy k cx r (bufferSize k cx.cipher)) = refilledBy k cx (r + 1) 0 :=
  (if_pos le_rfl).trans (refill_refilledBy k hc r _)

/-- The context about to give out byte `j` of the buffer after refill `r`: where that byte is a buffer's first, the
buffer before it is refilled. -/
theorem readied_usedTo {k : Nat} {cx : CtrContext} (hc : cx.ks.cipher = cx.cipher) (r : Nat) {j : Nat}
    (hj : j < bufferSize k cx.cipher) :
    readied k (usedTo k cx (bufferSize k cx.cipher * r + j)) = refilledBy k cx r j := by
  cases j with
  | succ j =>
    rw [← Nat.add_assoc, usedTo_succ r (Nat.lt_of_succ_lt hj)]
    exact readied_refilledBy_of_lt r hj
  | zero =>
    cases r with
    | zero =>
      rw [Nat.mul_zero, usedTo_zero]
      exact readied_refilledBy_of_lt 0 hj
    | succ r =>
      have hlast : bufferSize k cx.cipher * (r + 1)
          = bufferSize k cx.cipher * r + (bufferSize k cx.cipher - 1) + 1 := by
        rw [Nat.mul_succ]
        omega
      rw [Nat.add_zero, hlast, usedTo_succ r (Nat.sub_lt hj Nat.one_pos), Nat.sub_add_cancel hj]
      exact readied_refilledBy_full hc r

/-- Byte `j` of the buffer after refill `r`. -/
theorem getD_buf_refilledBy {k : Nat} {cx : CtrContext} (r o : Nat) {j : Nat} (hj : j < bufferSize k cx.cipher) :
    (refilledBy k cx r o).buf.getD j 0 = streamByte k cx (bufferSize k cx.cipher * r + j) := by
  cases r with
  | zero => simp [refilledBy, streamByte, hj]
  | succ r =>
    have hmore : bufferSize k cx.cipher * (r + 1) + j = bufferSize k cx.cipher * r + j + bufferSize k cx.cipher := by
      rw [Nat.mul_succ, Nat.add_right_comm]
    rw [streamByte, hmore, if_neg (by omega), Nat.add_sub_cancel]
    simp [refilledBy, List.getD_eq_getElem?_getD, hj]

/-- The stream XORs its input with the context's bytes from the next one on, and uses as many as it has input. -/
theorem ctrStream_usedTo {k : Nat} (hk : 0 < k) {cx : CtrContext} (hc : cx.ks.cipher = cx.cipher) (xs : List Byte)
    (n : Nat) :
    ctrStream k (usedTo k cx n) xs
      = (xs.mapIdx fun i x => x ^^^ streamByte k cx (n + i), usedTo k cx (n + xs.length)) := by
  induction xs generalizing n with
  | nil => rfl
  | cons x xs ih =>
    obtain ⟨r, j, hj, rfl⟩ : ∃ r j, j < bufferSize k cx.cipher ∧ n = bufferSize k cx.cipher * r + j :=
      ⟨_, _, Nat.mod_lt n (bufferSize_pos hk _), (Nat.div_add_mod n _).symm⟩
    have hready := readied_usedTo hc r hj
    have hhead : (refilledBy k cx r j).buf.getD (refilledBy k cx r j).offset 0
        = streamByte k cx (bufferSize k cx.cipher * r + j) := getD_buf_refilledBy r j hj
    have hnext : { refilledBy k cx r j with offset := (refilledBy k cx r j).offset + 1 }
        = usedTo k cx (bufferSize k cx.cipher * r + j + 1) := (usedTo_succ r hj).symm
    rw [ctrStream, hready, hhead, hnext, ih, List.mapIdx_cons, List.length_cons]
    simp only [Nat.add_zero, Nat.add_assoc, Nat.add_comm 1]

/-- The stream from a legal keyed context. -/
theorem ctrStream_of_legal {k : Nat} (hk : 0 < k) {cx : CtrContext} (h : LegalContext k cx) (hv : cx.ks.valid = true)
    (xs : List Byte) :
    ctrStream k cx xs
      = (xs.mapIdx fun i x => x ^^^ streamByte k cx (cx.offset + i), usedTo k cx (cx.offset + xs.length)) := by
  have hstream := ctrStream_usedTo hk (h.cipher hv) xs cx.offset
  rwa [usedTo_offset hk h.offset h.counter] at hstream

/-! ### The command (43_ctr.md R271) -/

/-- CTR_ENCRYPT under a key in a context of its cipher streams its operand to DATA_OUT. -/
theorem exec_ctrEncrypt_of_keyed {s : State} {c : Cipher} {len : BitVec 9} (hinit : s.cx.init = true)
    (hc : s.cx.cipher = c) (hv : s.cx.ks.valid = true) (hlen : len.toNat ≤ streamBytes) :
    exec (.ctrEncrypt c false len) s = .next (succeeded
      { s.putDataOut (ctrStream s.cfg.lanes.count s.cx (s.streamOperand len)).1 with
        cx := (ctrStream s.cfg.lanes.count s.cx (s.streamOperand len)).2 }) :=
  command_of_passed rfl (List.forall_mem_append.mpr
    ⟨contextChecks_passed.mpr ⟨hinit, hc⟩, by simpa [hv] using hlen⟩)

theorem length_streamOperand {s : State} (hsized : s.latch.Sized) {len : BitVec 9} (hlen : len.toNat ≤ 256) :
    (s.streamOperand len).length = len.toNat := by
  rw [State.streamOperand, List.length_take, hsized.dataIn]
  exact Nat.min_eq_left hlen

theorem getD_mapIdx {xs : List Byte} (f : Nat → Byte → Byte) {i : Nat} (hi : i < xs.length) :
    (xs.mapIdx f).getD i 0 = f i (xs.getD i 0) := by
  simp [List.getD_eq_getElem?_getD, hi]

/-- Settles O47: the stream's bytes are put out at DATA_OUT, and the context is the one they are used up to. -/
theorem ctrEncryptAppliesKeystream : Obligations.CtrEncryptAppliesKeystream := by
  rintro s c len hsized hlegal hinit rfl hv hlen
  have hoperand := length_streamOperand hsized hlen
  have hexec := exec_ctrEncrypt_of_keyed hinit rfl hv hlen
  rw [ctrStream_of_legal (lanes_count_pos _) hlegal hv, hoperand] at hexec
  refine ⟨_, hexec, fun i hi => ?_, fun a ha => ?_, rfl, rfl⟩
  · have hin : i < (s.streamOperand len).length := by rwa [hoperand]
    change (s.putDataOut _).mem.read _ = _
    rw [putDataOut_mem, read_writeBytes, List.length_mapIdx, hoperand, if_pos (by omega), Nat.add_sub_cancel_left,
      getD_mapIdx _ hin, State.streamOperand, getD_take _ hi]
    rfl
  · change (s.putDataOut _).mem.read _ = _
    rw [putDataOut_mem, read_writeBytes, List.length_mapIdx, hoperand, if_neg (by omega)]

end Sys2Proof.Machine
end

section
/-! PROOF. The errors of commands: what a failed command leaves, and the order of the checks on the block key slot and
on the CTR context (60_exceptions.md R301, R303, R305). -/

namespace Sys2Proof.Machine

/-! ### A failed command (60_exceptions.md R301) -/

/-- Settles O9: of the things a command can publish, only the bare error leaves OK 0. -/
theorem failedCommandChangesOnlyStatus : Obligations.FailedCommandChangesOnlyStatus := by
  intro i s t h hfailed
  cases exec_published h with
  | error e => exact raise_eq_failed s e
  | slot | block | context | stream => exact nomatch hfailed

/-! ### The first error (60_exceptions.md R303) -/

/-- A check that fails decides, whatever stands after it. -/
theorem firstError_append_of_failed {l : List (Bool × CmdError)} {e : CmdError} (h : firstError l = some e)
    (l' : List (Bool × CmdError)) : firstError (l ++ l') = some e := by
  induction l with
  | nil => exact nomatch h
  | cons p l ih =>
    obtain ⟨_ | _, e'⟩ := p
    · exact ih h
    · exact h

/-- The command is legal, and `guard` stands before all its other checks. -/
def GuardedBy (guard : List (Bool × CmdError)) (i : Instr) (s : State) : Prop :=
  i.wellFormed = true ∧ ∃ more u, exec i s = command i (guard ++ more) u s

/-- A guarded command publishes the error of the guard's first check that fails. -/
theorem exec_of_failed_guard {guard : List (Bool × CmdError)} {i : Instr} {s : State} {e : CmdError}
    (h : GuardedBy guard i s) (hfails : firstError guard = some e) :
    exec i s = .next (failed s (errorCode (some e))) := by
  obtain ⟨hwf, more, u, hexec⟩ := h
  exact hexec.trans (command_of_failed hwf (firstError_append_of_failed hfails more))

/-! ### The block key slot -/

theorem firstError_blockKeyChecks_of_other_cipher {s : State} {c : Cipher} (hv : s.bk.valid = true)
    (hc : s.bk.cipher ≠ c) : firstError (blockKeyChecks s c) = some .cipher := by
  have hne : (s.bk.cipher != c) = true := bne_iff_ne.mpr hc
  simp only [blockKeyChecks, firstError, hv, hne, Bool.and_self]

theorem firstError_blockKeyChecks_of_no_key {s : State} (hv : s.bk.valid = false) (c : Cipher) :
    firstError (blockKeyChecks s c) = some .nokey := by
  simp [blockKeyChecks, firstError, hv]

theorem guardedBy_blockKeyChecks {c : Cipher} {i : Instr} (h : UsesBlockKey c i) (s : State) :
    GuardedBy (blockKeyChecks s c) i s := by
  cases h with
  | setTweak => exact ⟨rfl, _, _, rfl⟩
  | swapModes | encryptBlock | cryptTweaked => exact ⟨rfl, [], _, rfl⟩
  | decryptBlock _ hc => exact ⟨isSkinny_of_ne_mantis hc, [], _, rfl⟩

/-- SET_TWEAK with a key of its cipher loaded publishes the error of its first own check that fails. -/
theorem exec_setTweak_of_failed {s : State} {c : Cipher} {nullp : Bool} {len : BitVec 9} {e : CmdError}
    (hv : s.bk.valid = true) (hc : s.bk.cipher = c)
    (hfails : firstError [(!s.bk.tweaked, .notweak), (badBlockOperand c nullp len, .param)] = some e) :
    exec (.setTweak c nullp len) s = .next (failed s (errorCode (some e))) :=
  command_of_failed rfl ((firstError_append_of_passed (blockKeyChecks_passed.mpr ⟨hv, hc⟩)).trans hfails)

/-- Settles O29: the slot's checks come first, and SET_TWEAK's own two after them. -/
theorem blockKeyErrorsInOrder : Obligations.BlockKeyErrorsInOrder := by
  refine fun s c => ⟨fun i hi hv hc => ?_, fun i hi hv => ?_, fun nullp len hv hc ht => ?_,
    fun nullp len hv hc ht hbad => ?_⟩
  · exact exec_of_failed_guard (guardedBy_blockKeyChecks hi s) (firstError_blockKeyChecks_of_other_cipher hv hc)
  · exact exec_of_failed_guard (guardedBy_blockKeyChecks hi s) (firstError_blockKeyChecks_of_no_key hv c)
  · exact exec_setTweak_of_failed (e := .notweak) hv hc (by rw [ht]; rfl)
  · exact exec_setTweak_of_failed (e := .param) hv hc (by rw [ht, badBlockOperand_of_bad hbad]; rfl)

/-! ### The CTR context -/

theorem firstError_contextChecks_of_no_context {s : State} (hinit : s.cx.init = false) (c : Cipher) :
    firstError (contextChecks s c) = some .noctx := by
  simp [contextChecks, firstError, hinit]

theorem firstError_contextChecks_of_other_cipher {s : State} {c : Cipher} (hinit : s.cx.init = true)
    (hc : s.cx.cipher ≠ c) : firstError (contextChecks s c) = some .cipher := by
  have hne : (s.cx.cipher != c) = true := bne_iff_ne.mpr hc
  simp only [contextChecks, firstError, hinit, hne, Bool.not_true]

theorem guardedBy_contextChecks {c : Cipher} {i : Instr} (h : UsesContext c i) (s : State) :
    GuardedBy (contextChecks s c) i s := by
  cases h with
  | ctrSetKey nullp len rounds hrounds =>
    refine ⟨?_, _, _, rfl⟩
    obtain rfl | rfl := hrounds
    · rfl
    · exact Bool.or_true c.isMantis
  | ctrSetTweakedKey nullp len hc => exact ⟨isSkinny_of_ne_mantis hc, _, _, rfl⟩
  | ctrSetTweak | ctrSetCounter | ctrEncrypt => exact ⟨rfl, _, _, rfl⟩

/-- Settles O30: the context's checks come first, NOCTX before CIPHER. -/
theorem contextErrorsInOrder : Obligations.ContextErrorsInOrder := by
  refine fun s c i hi => ⟨fun hinit => ?_, fun hinit hc => ?_⟩
  · exact exec_of_failed_guard (guardedBy_contextChecks hi s) (firstError_contextChecks_of_no_context hinit c)
  · exact exec_of_failed_guard (guardedBy_contextChecks hi s) (firstError_contextChecks_of_other_cipher hinit hc)

end Sys2Proof.Machine
end

section
/-! PROOF. How a step ends, and that the turns run out with every command completed but for a reset
(60_exceptions.md R300, R310, R311, 70_reset_and_hazards.md R331, R340). -/

namespace Sys2Proof.Machine

/-! ### A step that goes on -/

/-- A command is in flight or has completed: one was accepted, and no reset came after it (10_state.md R23, R36). -/
def State.CommandGiven (s : State) : Prop := s.seq.busy = true ∨ s.status.done = true

/-- What holds of every step from `s` that goes on to `t`: it takes one turn, and a command given is not lost but by a
reset. The core's turn leaves the sequencer idle. -/
structure TurnTaken (s t : State) : Prop where
  schedule : t.schedule = s.schedule.tail
  config : t.cfg = s.cfg
  given : s.turn ≠ .reset → s.CommandGiven → t.CommandGiven
  idle : s.turn = .core → s.Inv → t.seq.busy = false

/-- No access touches the schedule or the parameters, and none takes a command back. -/
theorem performAccess_kept (s : State) (a : Access) :
    (s.performAccess a).schedule = s.schedule ∧ (s.performAccess a).cfg = s.cfg ∧
      (s.CommandGiven → (s.performAccess a).CommandGiven) := by
  cases a with
  | read w a =>
    simp only [State.performAccess, State.busRead]
    split <;> exact ⟨rfl, rfl, id⟩
  | write w a v =>
    simp only [State.performAccess, State.busWrite]
    split_ifs
    · exact ⟨rfl, rfl, id⟩
    · exact ⟨rfl, rfl, fun _ => .inl rfl⟩
    · exact ⟨rfl, rfl, id⟩

theorem turnTaken_access {s t : State} {a : Access} (ha : s.turn = .access a) (hschedule : t.schedule = s.schedule.tail)
    (hconfig : t.cfg = s.cfg) (hgiven : s.CommandGiven → t.CommandGiven) : TurnTaken s t :=
  ⟨hschedule, hconfig, fun _ => hgiven, fun hcore => nomatch ha.symm.trans hcore⟩

/-- A completion: STATUS has DONE and the sequencer is idle. -/
theorem turnTaken_completion {s t : State} (hschedule : t.schedule = s.schedule.tail) (hconfig : t.cfg = s.cfg)
    (hdone : t.status.done = true) (hidle : t.seq.busy = false) : TurnTaken s t :=
  ⟨hschedule, hconfig, fun _ _ => .inr hdone, fun _ _ => hidle⟩

/-- With nothing pending the core's turn changes nothing, and the invariant says that the sequencer is idle. -/
theorem turnTaken_popTurn {s : State} (hnone : s.seq.pending = none) : TurnTaken s s.popTurn :=
  ⟨rfl, rfl, fun _ => id, fun _ h => h.sequencer.trans (by rw [hnone]; rfl)⟩

theorem turnTaken_platformReset {s : State} (h : s.turn = .reset) : TurnTaken s s.popTurn.platformReset :=
  ⟨rfl, rfl, fun hne => absurd h hne, fun _ _ => rfl⟩

/-- Every command completes, on the state with the turn taken off. -/
theorem exec_turnTaken (i : Instr) (s : State) : ∃ t, exec i s.popTurn = .next t ∧ TurnTaken s t := by
  obtain ⟨t, ht, hseq, -, hdone, -⟩ := everyCommandCompletes i s.popTurn
  obtain ⟨⟨-, hconfig, hschedule, -⟩, -⟩ := commandsWriteOnlyTheirOutputs i s.popTurn t ht
  exact ⟨t, ht, turnTaken_completion hschedule hconfig hdone (by rw [hseq])⟩

/-! ### Every step goes on, or stops at a refused access -/

/-- The only way for a step to stop: its turn is a refused access, on a platform that stops there. -/
def StopsAt (s : State) (a : Access) (why : Fault) : Prop :=
  s.turn = .access a ∧ accessFault a = some why ∧ s.cfg.busErrorStops = true ∧ step s = .fault why

theorem step_stops_or_goes_on (s : State) :
    (∃ a why, StopsAt s a why) ∨ ∃ t, step s = .next t ∧ TurnTaken s t := by
  obtain ⟨a, ha, hs⟩ | ⟨-, hnone, hs⟩ | ⟨_, i, -, -, -, hs⟩ | ⟨_, _, -, -, -, hs⟩ | ⟨hreset, hs⟩ := step_cases s
  · obtain ⟨why, hf, hstops, hout⟩ | ⟨why, -, -, hout⟩ | ⟨-, hout⟩ := busAccess_cases s.popTurn a
    · exact .inl ⟨a, why, ha, hf, hstops, hs.trans hout⟩
    · exact .inr ⟨_, hs.trans hout, turnTaken_access ha rfl rfl id⟩
    · obtain ⟨hschedule, hconfig, hgiven⟩ := performAccess_kept s.popTurn a
      exact .inr ⟨_, hs.trans hout, turnTaken_access ha hschedule hconfig hgiven⟩
  · exact .inr ⟨_, hs, turnTaken_popTurn hnone⟩
  · obtain ⟨t, ht, htaken⟩ := exec_turnTaken i s
    exact .inr ⟨t, hs.trans ht, htaken⟩
  · exact .inr ⟨_, hs, turnTaken_completion rfl rfl rfl rfl⟩
  · exact .inr ⟨_, hs, turnTaken_platformReset hreset⟩

/-- Settles O10: a step goes on or stops at a refused access, which is every outcome it has. -/
theorem onlyRefusedAccessesStop : Obligations.OnlyRefusedAccessesStop := by
  intro s
  obtain ⟨a, why, hturn, hf, hstops, hs⟩ | ⟨t, hs, -⟩ := step_stops_or_goes_on s
  · refine ⟨fun r hr => (nomatch hs.symm.trans hr), fun why' hwhy => ⟨a, hturn, ?_, hstops⟩⟩
    rwa [← Host.Outcome.fault.inj (hs.symm.trans hwhy)]
  · exact ⟨fun r hr => (nomatch hs.symm.trans hr), fun why hwhy => nomatch hs.symm.trans hwhy⟩

/-! ### The run of the scheduled turns -/

theorem run_succ_of_fault {M : Host.Core} {s : M.State} {why : M.Fault} (h : M.step s = .fault why) (k : Nat) :
    M.run (k + 1) s = .fault why := by
  rw [Host.Core.run, h]

theorem run_succ_of_next {M : Host.Core} {s t : M.State} (h : M.step s = .next t) (k : Nat) :
    M.run (k + 1) s = M.run k t := by
  rw [Host.Core.run, h]

theorem turn_of_cons {s : State} {turn : Turn} {rest : List Turn} (h : s.schedule = turn :: rest) : s.turn = turn := by
  rw [State.turn, h]

/-- Nothing scheduled: the one step left is the core's, and no access is there to stop it. -/
theorem last_step {s : State} (h : s.Inv) (hs : s.schedule = []) :
    ∃ t, step s = .next t ∧ t.schedule = [] ∧ t.seq.busy = false ∧ (s.CommandGiven → t.status.done = true) := by
  have hcore : s.turn = .core := by rw [State.turn, hs]
  obtain ⟨a, why, hturn, -⟩ | ⟨t, ht, htaken⟩ := step_stops_or_goes_on s
  · exact nomatch hcore.symm.trans hturn
  · have hidle := htaken.idle hcore h
    refine ⟨t, ht, by rw [htaken.schedule, hs]; rfl, hidle, fun hgiven => ?_⟩
    exact (htaken.given (by rw [hcore]; nofun) hgiven).resolve_left (by simp [hidle])

/-- The run of all the turns and one more stops at a refused access among them, or ends idle, with DONE when a command
was given and no reset is among them: by induction on the turns. -/
theorem run_schedule_ends (turns : List Turn) : ∀ s : State, s.schedule = turns → s.Inv →
    (∃ a why, .access a ∈ turns ∧ accessFault a = some why ∧ s.cfg.busErrorStops = true ∧
      core.run (turns.length + 1) s = .fault why) ∨
    ∃ t, core.run (turns.length + 1) s = .next t ∧ t.schedule = [] ∧ t.seq.busy = false ∧
      (s.CommandGiven → .reset ∉ turns → t.status.done = true) := by
  induction turns with
  | nil =>
    intro s hs h
    obtain ⟨t, ht, hempty, hidle, hdone⟩ := last_step h hs
    exact .inr ⟨t, run_succ_of_next (M := core) ht 0, hempty, hidle, fun hgiven _ => hdone hgiven⟩
  | cons turn rest ih =>
    intro s hs h
    have hturn := turn_of_cons hs
    obtain ⟨a, why, ha, hf, hstops, hstep⟩ | ⟨u, hstep, htaken⟩ := step_stops_or_goes_on s
    · have hmem : .access a ∈ turn :: rest := List.mem_cons.mpr (.inl (ha.symm.trans hturn))
      exact .inl ⟨a, why, hmem, hf, hstops, run_succ_of_fault (M := core) hstep _⟩
    · have hrest : u.schedule = rest := by rw [htaken.schedule, hs]; rfl
      have hrun := run_succ_of_next (M := core) hstep (rest.length + 1)
      obtain ⟨a, why, ha, hf, hstops, hout⟩ | ⟨t, hout, hempty, hidle, hdone⟩ :=
        ih u hrest (stepKeepsInvariant s u h hstep)
      · exact .inl ⟨a, why, List.mem_cons_of_mem _ ha, hf, htaken.config ▸ hstops, hrun.trans hout⟩
      · refine .inr ⟨t, hrun.trans hout, hempty, hidle, fun hgiven hno => ?_⟩
        obtain ⟨hne, hrestNo⟩ := not_or.mp (mt List.mem_cons.mpr hno)
        exact hdone (htaken.given (hturn ▸ Ne.symm hne) hgiven) hrestNo

/-- Settles O11: a pending command is one that was given. -/
theorem completionAlwaysComes : Obligations.CompletionAlwaysComes := fun s h =>
  (run_schedule_ends s.schedule s rfl h).imp_right fun ⟨t, hrun, hempty, hidle, hdone⟩ =>
    ⟨t, hrun, hempty, hidle, fun hbusy => hdone (.inl hbusy)⟩

end Sys2Proof.Machine
end
